-- ==== Sys2Proof/Word.lean ====
section
/-! DEFINITION. The widths of CORE (R4, R6, R50): Word, Byte, bus address, and the four working shapes built from Words. -/

namespace Sys2Proof

/-- "an unsigned 64-bit integer" (R6, R10). -/
abbrev Word := BitVec 64

/-- An integer in [0, 2^8) (R6). -/
abbrev Byte := BitVec 8

/-- An address of the host address space, 12 bits wide (R50). -/
abbrev Addr := BitVec 12

/-- Eight Words: the chaining state H, the result HOUT, the ROM IV (R22, R30, R32). -/
abbrev Words8 := Vector Word 8

/-- Sixteen Words: the working vector V, the message Words MW (R35, R38). -/
abbrev Words16 := Vector Word 16

end Sys2Proof
end

