-- ==== Sys2Proof/Syntax.lean ====
section
/-! DEFINITION. The commands of CORE: one constructor per row of spec/opcode_table.json (R89). No command has an operand: "Every operand is in an argument register or buffer" (R88). -/

namespace Sys2Proof

/-- The four commands a host can write to CMD (R89). -/
inductive Instr where
  /-- OP 0x00, the status clear (R151). -/
  | clear
  /-- OP 0x01, the source's `decode_input` (R152). -/
  | decode
  /-- OP 0x02, the source's `compress` (R153). -/
  | compress
  /-- OP 0x03, the source's `decode_and_compress` (R154). -/
  | decodeCompress
  deriving DecidableEq, Repr

end Sys2Proof
end

