-- ==== Sys2Proof/WellFormed.lean ====
section
/-! DEFINITION. What makes a command word legal (R88, R90). A command has no operands, so every `Instr` is well-formed; the checks are those on the 64-bit word CMD64. -/

namespace Sys2Proof

/-- Every command is well-formed: it carries no operand that could be out of range (R88). -/
abbrev Instr.WellFormed (i : Instr) : Prop :=
  match i with
  | .clear => True
  | .decode => True
  | .compress => True
  | .decodeCompress => True

/-- The reserved field RSV = c[63:8] is 0 (R88). -/
abbrev CommandWord.ReservedZero (c : Word) : Prop := c.extractLsb' 8 56 = 0#56

/-- The opcode field OP = c[7:0] is one of 0x00 to 0x03 (R89, R90). -/
abbrev CommandWord.OpcodeKnown (c : Word) : Prop := (c.extractLsb' 0 8).toNat ≤ 3

/-- A command word is legal exactly when both checks hold; otherwise it is illegal (R90). -/
abbrev CommandWord.Legal (c : Word) : Prop := CommandWord.ReservedZero c ∧ CommandWord.OpcodeKnown c

end Sys2Proof
end

