-- ==== Sys2Proof/Decode.lean ====
section
/-! DEFINITION. Command words to commands and back (R88 to R91), and the host's numbering of an opcode-table row's bits. -/

namespace Sys2Proof

/-- The command a 64-bit value written to CMD selects: the OP field chooses, provided RSV is 0; every other word is illegal
(R89, R90). A register write is value-level, so no byte order enters (R58; log 12). -/
def decodeCommand (c : Word) : Option Instr :=
  if c.extractLsb' 8 56 = 0#56 then
    match (c.extractLsb' 0 8).toNat with
    | 0 => some .clear
    | 1 => some .decode
    | 2 => some .compress
    | 3 => some .decodeCompress
    | _ => none
  else none

/-- The opcode OP of a command (R89). -/
def opcode : Instr → Byte
  | .clear => 0x00#8
  | .decode => 0x01#8
  | .compress => 0x02#8
  | .decodeCompress => 0x03#8

/-- The command word CMD64 of a command: RSV = 0 above its opcode (R88, R89). -/
def encode (i : Instr) : Word := 0#56 ++ opcode i

/-- The 64-bit value whose low `nbits` bits are w's and whose bits above are 0: a table row's word as a bus value. -/
def tableWord (nbits w : Nat) : Word := BitVec.ofNat 64 (w % 2 ^ nbits)

/-- The decoder on a word numbered as spec/opcode_table.json numbers it: bit 0 is the value's least significant bit (R5, R89).
A word of more than 64 bits is no command word (R80). -/
def decodeTableWord (nbits w : Nat) : Option Instr :=
  if nbits ≤ 64 then decodeCommand (tableWord nbits w) else none

end Sys2Proof
end

