-- ==== Sys2Proof/Config.lean ====
section
/-! DEFINITION. What the spec leaves open for good: the free values that V and MW take at a reset event (R200; U1 of 93_implementation_defined.md). Every other parameter of CORE has a value (R4). -/

namespace Sys2Proof.Config

/-- The n-th Word the spec leaves unspecified: "V and MW become unspecified" (R200). It has no body, so no proof can rest on
what it is. DESIGN CHOICE of form, safe: log 4. -/
opaque freeWord : Nat → Word

end Sys2Proof.Config
end

