-- ==== Sys2Proof/Machine/State.lean ====
section
/-! DEFINITION. The state of CORE (R20), the host accesses and bus responses (R55), the model's outside world as plain data, and the state after reset (R40). -/

namespace Sys2Proof.Machine

/-- The typed errors of R181, without "none". -/
inductive Error where
  /-- Code 1: IN_LEN is not 213. -/
  | invalidInputLength
  /-- Code 2: the frame's last byte is neither 0 nor 1. -/
  | invalidFinalFlag
  /-- Code 3: a buffer to be word-decoded is not a multiple of 8 bytes; raised by the codec alone, by no command (R104). -/
  | invalidLength
  /-- Code 4: an illegal command word (R90). -/
  | illegalCommand
  deriving DecidableEq, Repr

/-- The command sequencer state (R36). -/
inductive Phase where
  | idle
  | mix
  deriving DecidableEq, Repr

/-- STATUS (R29): its fields. Reserved bits read 0 and cannot be written (R39), so they are not held; the 64-bit value is
`Status.word`. DEDUCED, safe: log 8. -/
structure Status where
  busy : Bool := false
  done : Bool := false
  err : Bool := false
  ovr : Bool := false
  /-- ERRCODE: `none` is code 0. -/
  errcode : Option Error := none
  deriving DecidableEq, Repr

/-- The 64-bit register slots of the register region (R51). -/
inductive Reg where
  | cmd
  | status
  | inLen
  | rounds
  | fflag
  | ridx
  | t (k : Fin 2)
  | h (k : Fin 8)
  | hout (k : Fin 8)
  | iv (k : Fin 8)
  deriving DecidableEq, Repr

/-- The mapped bytes of the byte region (R51). -/
inductive ByteItem where
  | inbuf (k : Fin 213)
  | block (k : Fin 128)
  | outbuf (k : Fin 64)
  | sigma (r : Fin 10) (j : Fin 16)
  | rot (k : Fin 4)
  deriving DecidableEq, Repr

/-- The host's four access operations (R55). -/
inductive Access where
  | regRead (a : Addr)
  | regWrite (a : Addr) (v : Word)
  | byteRead (a : Addr)
  | byteWrite (a : Addr) (b : Byte)
  deriving DecidableEq, Repr

/-- What the bus answers to an access (R55, R155). -/
inductive Response where
  /-- A write that is no bus error. -/
  | ok
  | busError
  /-- The value a RegRead returns. -/
  | word (v : Word)
  /-- The value a ByteRead returns. -/
  | byte (b : Byte)
  deriving DecidableEq, Repr

/-- What the host does in one of its turns: one access, or one iteration of the POLL loop of R93. -/
inductive HostOp where
  | access (a : Access)
  | poll
  deriving DecidableEq, Repr

/-- Whose step comes next (R11, R200). -/
inductive Turn where
  | host
  | engine
  | reset
  deriving DecidableEq, Repr

/-- The bytes of INBUF, BLOCK and OUTBUF by host address, in canonical form (`Memory.wf`). -/
abbrev Memory := List Host.Cell

/-- The items of R20 that can change, and four fields of the model's own: `response`, `hostOps`, `turns`, `freeIndex`. CMD holds
no state (R28); the ROMs IV, SIGMA and ROT are constants (R43). -/
structure State where
  /-- ROUNDS (R21). -/
  rounds : BitVec 32
  /-- H[0..8) (R22). -/
  h : Words8
  /-- T[0], T[1] (R24). -/
  t : Vector Word 2
  /-- FFLAG (R25). -/
  fflag : Bool
  /-- IN_LEN (R26). -/
  inLen : Word
  /-- INBUF, BLOCK and OUTBUF (R23, R27, R31). -/
  mem : Memory
  /-- STATUS (R29). -/
  status : Status
  /-- HOUT[0..8) (R30). -/
  hout : Words8
  /-- V[0..16) (R35). -/
  v : Words16
  /-- MW[0..16) (R38). -/
  mw : Words16
  /-- PHASE (R36). -/
  phase : Phase
  /-- RIDX (R37). -/
  ridx : BitVec 32
  /-- The model's own: the answer to the host's latest access. DESIGN CHOICE, safe: log 9. -/
  response : Option Response
  /-- The model's own: what the host does in its next turns, first one first. DESIGN CHOICE: log 1. -/
  hostOps : List HostOp
  /-- The model's own: whose turn is next; when it is empty, `State.turn` says. DESIGN CHOICE: log 2. -/
  turns : List Turn
  /-- The model's own: which free value comes next. DESIGN CHOICE: log 4. -/
  freeIndex : Nat
  deriving DecidableEq, Repr

/-- Why a step can stop the machine. -/
inductive Fault where
  /-- Raised by the engine step alone, in a state with PHASE = MIX and RIDX above ROUNDS. No rule gives the engine a step there
  (R160, R161) and no run gets there (R37). Safe: log 7. -/
  | ridxPastRounds
  deriving DecidableEq, Repr

/-- Why an instruction can have no meaning. -/
inductive Refusal where
  /-- Raised by an arm of `exec` for an instruction without a meaning; no arm does so now. Safe. -/
  | notModelled (mnemonic : String)
  deriving DecidableEq, Repr

/-- The machine right after reset (R40, R200). V and MW are unspecified there; zero is the model's value. DESIGN CHOICE, unsafe:
log 3. -/
def State.reset : State where
  rounds := 0
  h := Vector.replicate 8 0
  t := Vector.replicate 2 0
  fflag := false
  inLen := 0
  mem := []
  status := {}
  hout := Vector.replicate 8 0
  v := Vector.replicate 16 0
  mw := Vector.replicate 16 0
  phase := .idle
  ridx := 0
  response := none
  hostOps := []
  turns := []
  freeIndex := 0

end Sys2Proof.Machine
end

