-- ==== Sys2Proof/Machine/Codec.lean ====
section
/-! DEFINITION. The Word Codec (R100 to R104): bytes to little-endian Words and back, and the big-endian reading of the rounds field. -/

namespace Sys2Proof.Machine

/-- Σ b[j] · 2^(8j): a byte string read least-significant byte first (R100). -/
def leNat : List Byte → Nat
  | [] => 0
  | b :: bs => b.toNat + 256 * leNat bs

/-- The Word of one 8-byte chunk (R100). -/
def leWord (chunk : List Byte) : Word := BitVec.ofNat 64 (leNat chunk)

/-- The first n 8-byte chunks of a byte string as Words (R100). -/
def chunkWords : Nat → List Byte → List Word
  | 0, _ => []
  | n + 1, bs => leWord (bs.take 8) :: chunkWords n (bs.drop 8)

/-- `decode_words`: fails exactly when the length is not a multiple of 8 (R100). -/
def decodeWords (bs : List Byte) : Except Error (List Word) :=
  if bs.length % 8 ≠ 0 then .error .invalidLength else .ok (chunkWords (bs.length / 8) bs)

/-- The eight bytes of a Word, least significant first: byte j is w[8j+7:8j] (R60, R101). -/
def wordBytes (w : Word) : List Byte := (List.range 8).map fun j => w.extractLsb' (8 * j) 8

/-- `encode_words` (R101). -/
def encodeWords : List Word → List Byte
  | [] => []
  | w :: ws => wordBytes w ++ encodeWords ws

/-- The codec at one of CORE's fixed lengths: n Words from 8n bytes, where `decode_words` cannot fail (R104). DEDUCED: log 15. -/
@[irreducible] def fixedWords (n : Nat) (bs : List Byte) : Vector Word n :=
  Vector.ofFn fun k => leWord ((bs.drop (8 * k.val)).take 8)

/-- A byte string read most-significant byte first. -/
def beNat (bs : List Byte) : Nat := bs.foldl (fun n b => 256 * n + b.toNat) 0

/-- `decode_be32`: b[0]·2^24 + b[1]·2^16 + b[2]·2^8 + b[3] (R102). -/
def decodeBE32 (bs : List Byte) : BitVec 32 := BitVec.ofNat 32 (beNat bs)

/-- The four bytes of a 32-bit number, most significant first: the rounds field as a frame holds it (R82). -/
def encodeBE32 (r : BitVec 32) : List Byte :=
  [r.extractLsb' 24 8, r.extractLsb' 16 8, r.extractLsb' 8 8, r.extractLsb' 0 8]

end Sys2Proof.Machine
end

