-- ==== Sys2Proof/Machine/Compression.lean ====
section
/-! DEFINITION. The Compression Engine's datapath as pure functions (R120 to R134). -/

namespace Sys2Proof.Machine

/-- `add64`: addition modulo 2^64, no carry or overflow flag (R120). -/
def add64 (a b : Word) : Word := a + b

/-- `xor64` (R121). -/
def xor64 (a b : Word) : Word := a ^^^ b

/-- `not64(a) = a XOR 0xFFFFFFFFFFFFFFFF` (R121). -/
def not64 (a : Word) : Word := a ^^^ 0xFFFFFFFFFFFFFFFF#64

/-- `rotr64(x, n) = (x >> n) OR (x << (64 - n))` for 0 < n < 64 (R122). -/
def rotr64 (x : Word) (n : Nat) : Word := (x >>> n) ||| (x <<< (64 - n))

/-- The k-th rotation amount, ROT[k] (R34). -/
def rotAmount (k : Fin 4) : Nat := Rom.rot[k].toNat

/-- `G(v, a, b, c, d, x, y)`: eight steps in order, each reading what the previous ones wrote (R123). -/
def mixG (v : Words16) (a b c d : Fin 16) (x y : Word) : Words16 :=
  let v := v.set a (add64 (add64 v[a] v[b]) x)
  let v := v.set d (rotr64 (xor64 v[d] v[a]) (rotAmount 0))
  let v := v.set c (add64 v[c] v[d])
  let v := v.set b (rotr64 (xor64 v[b] v[c]) (rotAmount 1))
  let v := v.set a (add64 (add64 v[a] v[b]) y)
  let v := v.set d (rotr64 (xor64 v[d] v[a]) (rotAmount 2))
  let v := v.set c (add64 v[c] v[d])
  v.set b (rotr64 (xor64 v[b] v[c]) (rotAmount 3))

/-- The row SIGMA[i mod 10] of round index i (R125). -/
def sigmaRow (i : Nat) : Vector (Fin 16) 16 := Rom.sigma[i % 10]'(Nat.mod_lt i (by decide))

/-- Calls 0 to 3 of a round, the column pass, with the row s (R124). -/
def columnPass (v m : Words16) (s : Vector (Fin 16) 16) : Words16 :=
  let v := mixG v 0 4 8 12 m[s[0]] m[s[1]]
  let v := mixG v 1 5 9 13 m[s[2]] m[s[3]]
  let v := mixG v 2 6 10 14 m[s[4]] m[s[5]]
  mixG v 3 7 11 15 m[s[6]] m[s[7]]

/-- Calls 4 to 7 of a round, the diagonal pass, with the row s (R124). -/
def diagonalPass (v m : Words16) (s : Vector (Fin 16) 16) : Words16 :=
  let v := mixG v 0 5 10 15 m[s[8]] m[s[9]]
  let v := mixG v 1 6 11 12 m[s[10]] m[s[11]]
  let v := mixG v 2 7 8 13 m[s[12]] m[s[13]]
  mixG v 3 4 9 14 m[s[14]] m[s[15]]

/-- `ROUND(v, m, i)`: one mixing round, the diagonal pass after the whole column pass (R124, R126). -/
@[irreducible] def mixRound (v m : Words16) (i : Nat) : Words16 :=
  diagonalPass (columnPass v m (sigmaRow i)) m (sigmaRow i)

/-- `for i in [0..n): v <- ROUND(v, m, i)` (R131). -/
def mixRounds (m : Words16) : Nat → Words16 → Words16
  | 0, v => v
  | n + 1, v => mixRound (mixRounds m n v) m n

/-- Lane 14 of the initial vector: IV[6], all its bits flipped when f is true (R127, R128). -/
def flagLane (f : Bool) : Word := if f then not64 Rom.iv[6] else Rom.iv[6]

/-- `INIT(h, t, f)`: the working vector before the first round (R127). -/
@[irreducible] def initVector (h : Words8) (t : Vector Word 2) (f : Bool) : Words16 :=
  #v[h[0], h[1], h[2], h[3], h[4], h[5], h[6], h[7],
     Rom.iv[0], Rom.iv[1], Rom.iv[2], Rom.iv[3],
     xor64 t[0] Rom.iv[4], xor64 t[1] Rom.iv[5], flagLane f, Rom.iv[7]]

/-- The 16 message Words of a 128-byte block (R129). -/
def messageWords (block : List Byte) : Words16 := fixedWords 16 block

/-- `FINALIZE(h, v)`: result[k] = h[k] XOR v[k] XOR v[k + 8] (R130). -/
@[irreducible] def finalizeVector (h : Words8) (v : Words16) : Words8 :=
  Vector.ofFn fun k : Fin 8 => xor64 (xor64 h[k] v[k.val]) v[k.val + 8]

/-- `compress(rounds, h, block, t, f)` (R131). CORE applies it to rounds below 2^32; the function takes any number (U8). -/
def compress (rounds : Nat) (h : Words8) (block : List Byte) (t : Vector Word 2) (f : Bool) : Words8 :=
  finalizeVector h (mixRounds (messageWords block) rounds (initVector h t f))

end Sys2Proof.Machine
end

