-- ==== Sys2Proof/Machine/Flags.lean ====
section
/-! DEFINITION. STATUS as a register value and the error codes (R29, R39, R181); the STATUS values that commands, errors and dropped writes leave. -/

namespace Sys2Proof.Machine

/-- The code of an error (R181). -/
def Error.code : Error → Nat
  | .invalidInputLength => 1
  | .invalidFinalFlag => 2
  | .invalidLength => 3
  | .illegalCommand => 4

/-- ERRCODE: 0 when there is no error (R29, R181). -/
def Status.code (st : Status) : Nat :=
  match st.errcode with
  | none => 0
  | some e => e.code

/-- The 64-bit value a RegRead of STATUS returns: BUSY [0], DONE [1], ERR [2], OVR [3], ERRCODE [11:8], all else 0 (R29, R39). -/
def Status.word (st : Status) : Word :=
  BitVec.ofNat 64 (st.busy.toNat + 2 * st.done.toNat + 4 * st.err.toNat + 8 * st.ovr.toNat + 256 * st.code)

/-- `STATUS <- {}` (R151). -/
def Status.clear : Status := {}

/-- `STATUS <- {DONE: 1}` (R152). -/
def Status.finished : Status := { done := true }

/-- `STATUS <- {BUSY: 1}` (R153). -/
def Status.running : Status := { busy := true }

/-- `STATUS <- {ERR: 1, ERRCODE: code}` (R183). -/
def Status.failed (e : Error) : Status := { err := true, errcode := some e }

/-- `STATUS.OVR <- 1`, the other fields kept (R156, R157). -/
def Status.overrun (st : Status) : Status := { st with ovr := true }

/-- `STATUS <- {DONE: 1, OVR: STATUS.OVR}` (R161). -/
def Status.finalised (st : Status) : Status := { done := true, ovr := st.ovr }

end Sys2Proof.Machine
end

