-- ==== Sys2Proof/Machine/InputDecoder.lean ====
section
/-! DEFINITION. The Input Decoder (R110 to R115): the 213-byte frame FRAME213 (R81 to R86) into the five typed arguments, and the frame that encodes given arguments. -/

namespace Sys2Proof.Machine

/-- The tuple `(rounds, h, block, t, f)` (R114). The block stays raw bytes. -/
structure Arguments where
  rounds : BitVec 32
  h : Words8
  block : List Byte
  t : Vector Word 2
  f : Bool
  deriving DecidableEq, Repr

/-- `frame[a .. a + n)`. -/
def field (frame : List Byte) (a n : Nat) : List Byte := (frame.drop a).take n

/-- The final-flag byte, frame offset 212 (R112). -/
def flagByte (frame : List Byte) : Byte := frame.getD 212 0

/-- The five fields of a frame at their offsets (R81 to R86). -/
def frameArguments (frame : List Byte) : Arguments where
  rounds := decodeBE32 (field frame 0 4)
  h := fixedWords 8 (field frame 4 64)
  block := field frame 68 128
  t := fixedWords 2 (field frame 196 16)
  f := flagByte frame == 0x01#8

/-- `decode_input(frame, n)`: the length check, then the final-flag check, and no other (R110 to R113, R115). -/
def decodeInput (frame : List Byte) (n : Word) : Except Error Arguments :=
  if n ≠ 213#64 then .error .invalidInputLength
  else if flagByte frame ≠ 0x00#8 ∧ flagByte frame ≠ 0x01#8 then .error .invalidFinalFlag
  else .ok (frameArguments frame)

/-- The frame that holds given arguments, in the layout of R81. -/
def encodeFrame (args : Arguments) : List Byte :=
  encodeBE32 args.rounds ++ encodeWords args.h.toList ++ args.block ++ encodeWords args.t.toList ++
    [if args.f then 0x01#8 else 0x00#8]

end Sys2Proof.Machine
end

