-- ==== Sys2Proof/Machine/Operands.lean ====
section
/-! DEFINITION. The host address map (R50 to R54, R57): which item an address names, the address of an item, and what may be written. -/

namespace Sys2Proof.Machine

/-- The register in slot k, that is at address 8k (R51). -/
def regSlot (k : Nat) : Option Reg :=
  if k = 0 then some .cmd
  else if k = 1 then some .status
  else if k = 2 then some .inLen
  else if k = 3 then some .rounds
  else if k = 4 then some .fflag
  else if k = 5 then some .ridx
  else if hk : 6 ≤ k ∧ k < 8 then some (.t ⟨k - 6, by omega⟩)
  else if hk : 8 ≤ k ∧ k < 16 then some (.h ⟨k - 8, by omega⟩)
  else if hk : 16 ≤ k ∧ k < 24 then some (.hout ⟨k - 16, by omega⟩)
  else if hk : 24 ≤ k ∧ k < 32 then some (.iv ⟨k - 24, by omega⟩)
  else none

/-- The register a RegRead or RegWrite address reaches: a multiple of 8, at most 0x0FF (R52, R56). -/
def regAt (a : Addr) : Option Reg := if a.toNat % 8 = 0 then regSlot (a.toNat / 8) else none

/-- The mapped byte at an address of the byte region; none below 0x100 and at unmapped addresses (R53, R54, R56). -/
def byteAtNat (n : Nat) : Option ByteItem :=
  if hn : 0x100 ≤ n ∧ n < 0x1D5 then some (.inbuf ⟨n - 0x100, by omega⟩)
  else if hn : 0x200 ≤ n ∧ n < 0x280 then some (.block ⟨n - 0x200, by omega⟩)
  else if hn : 0x280 ≤ n ∧ n < 0x2C0 then some (.outbuf ⟨n - 0x280, by omega⟩)
  else if hn : 0x2C0 ≤ n ∧ n < 0x360 then some (.sigma ⟨(n - 0x2C0) / 16, by omega⟩ ⟨(n - 0x2C0) % 16, by omega⟩)
  else if hn : 0x360 ≤ n ∧ n < 0x364 then some (.rot ⟨n - 0x360, by omega⟩)
  else none

/-- The byte item a ByteRead or ByteWrite address reaches (R53). -/
def byteAt (a : Addr) : Option ByteItem := byteAtNat a.toNat

/-- The address of a register (R51). -/
def Reg.addr : Reg → Addr
  | .cmd => 0x000#12
  | .status => 0x008#12
  | .inLen => 0x010#12
  | .rounds => 0x018#12
  | .fflag => 0x020#12
  | .ridx => 0x028#12
  | .t k => BitVec.ofNat 12 (0x030 + 8 * k.val)
  | .h k => BitVec.ofNat 12 (0x040 + 8 * k.val)
  | .hout k => BitVec.ofNat 12 (0x080 + 8 * k.val)
  | .iv k => BitVec.ofNat 12 (0x0C0 + 8 * k.val)

/-- The address of a byte item, as a number (R51). -/
def ByteItem.addrNat : ByteItem → Nat
  | .inbuf k => 0x100 + k.val
  | .block k => 0x200 + k.val
  | .outbuf k => 0x280 + k.val
  | .sigma r j => 0x2C0 + 16 * r.val + j.val
  | .rot k => 0x360 + k.val

/-- The address of a byte item (R51). -/
def ByteItem.addr (b : ByteItem) : Addr := BitVec.ofNat 12 b.addrNat

/-- The registers a RegWrite may reach; the others are read only (R57). CMD is write only, but reading it is no error. -/
def Reg.writable : Reg → Bool
  | .cmd => true
  | .status => false
  | .inLen => true
  | .rounds => true
  | .fflag => true
  | .ridx => false
  | .t _ => true
  | .h _ => true
  | .hout _ => false
  | .iv _ => false

/-- The bytes a ByteWrite may reach; the others are read only (R57). -/
def ByteItem.writable : ByteItem → Bool
  | .inbuf _ => true
  | .block _ => true
  | .outbuf _ => false
  | .sigma _ _ => false
  | .rot _ => false

end Sys2Proof.Machine
end

