-- ==== Sys2Proof/Machine/Ops.lean ====
section
/-! DEFINITION. The named operations over memory and registers: byte memory in canonical form, the register reads of R158, the error report of R183, the dropped write of R156 and R157, command acceptance, and reset (R200). -/

namespace Sys2Proof.Machine

/-! ### Memory: the bytes of INBUF, BLOCK and OUTBUF -/

/-- What a byte that the list does not name reads as: the reset value 0 of R40 (log 6). -/
def Memory.unlisted : Byte := 0#8

/-- The host addresses of INBUF, BLOCK and OUTBUF (R51). -/
abbrev Memory.InBuffers (a : Nat) : Prop := (0x100 ≤ a ∧ a < 0x1D5) ∨ (0x200 ≤ a ∧ a < 0x2C0)

/-- The canonical form: addresses strictly rising, all in the three buffers, and no entry that equals an unlisted byte. -/
abbrev Memory.wf (m : Memory) : Prop :=
  m.Pairwise (fun x y => x.1 < y.1) ∧ ∀ x ∈ m, x.2 ≠ Memory.unlisted ∧ Memory.InBuffers x.1

/-- The byte at an address. -/
def Memory.read : Memory → Nat → Byte
  | [], _ => Memory.unlisted
  | (k, x) :: m, a => if k = a then x else Memory.read m a

/-- One byte stored, the canonical form kept. -/
def Memory.write : Memory → Nat → Byte → Memory
  | [], a, b => if b = Memory.unlisted then [] else [(a, b)]
  | (k, x) :: m, a, b =>
    if k < a then (k, x) :: Memory.write m a b
    else if k = a then (if b = Memory.unlisted then m else (a, b) :: m)
    else (if b = Memory.unlisted then (k, x) :: m else (a, b) :: (k, x) :: m)

/-- The n bytes from address a on. -/
@[irreducible] def Memory.load (m : Memory) (a n : Nat) : List Byte := (List.range n).map fun k => Memory.read m (a + k)

/-- A byte string stored from address a on. -/
@[irreducible] def Memory.store (m : Memory) (a : Nat) : List Byte → Memory
  | [] => m
  | b :: bs => Memory.store (Memory.write m a b) (a + 1) bs

/-! ### Register and buffer accessors -/

/-- INBUF[0..213) (R27). -/
def State.inbuf (s : State) : List Byte := Memory.load s.mem 0x100 213

/-- BLOCK[0..128) (R23). -/
def State.block (s : State) : List Byte := Memory.load s.mem 0x200 128

/-- OUTBUF[0..64) (R31). -/
def State.outbuf (s : State) : List Byte := Memory.load s.mem 0x280 64

/-- FFLAG as a bit: true = 1 (R6, R25). -/
def flagWord (f : Bool) : Word := if f then 1#64 else 0#64

/-- The value a RegRead of a register returns (R158). -/
def readReg (r : Reg) (s : State) : Word :=
  match r with
  | .cmd => 0#64
  | .status => s.status.word
  | .inLen => s.inLen
  | .rounds => s.rounds.setWidth 64
  | .fflag => flagWord s.fflag
  | .ridx => s.ridx.setWidth 64
  | .t k => s.t[k]
  | .h k => s.h[k]
  | .hout k => s.hout[k]
  | .iv k => Rom.iv[k]

/-- The value a ByteRead of a mapped byte returns (R164). A SIGMA entry is held in a byte whose bits [7:4] are 0 (R33). -/
def readByte (b : ByteItem) (s : State) : Byte :=
  match b with
  | .inbuf k => Memory.read s.mem (0x100 + k.val)
  | .block k => Memory.read s.mem (0x200 + k.val)
  | .outbuf k => Memory.read s.mem (0x280 + k.val)
  | .sigma r j => BitVec.ofNat 8 (Rom.sigma[r][j]).val
  | .rot k => Rom.rot[k]

/-- `IN_LEN <- v` (R159). -/
def State.setInLen (v : Word) (s : State) : State := { s with inLen := v }

/-- `ROUNDS <- v[31:0]` (R159). -/
def State.setRounds (v : Word) (s : State) : State := { s with rounds := v.extractLsb' 0 32 }

/-- `FFLAG <- v[0]` (R159). -/
def State.setFflag (v : Word) (s : State) : State := { s with fflag := v.getLsbD 0 }

/-- `T[k] <- v` (R159). -/
def State.setT (k : Fin 2) (v : Word) (s : State) : State := { s with t := s.t.set k v }

/-- `H[k] <- v` (R159). -/
def State.setH (k : Fin 8) (v : Word) (s : State) : State := { s with h := s.h.set k v }

/-- A byte of INBUF or BLOCK at its host address (R164). -/
def State.setByte (a : Nat) (b : Byte) (s : State) : State := { s with mem := Memory.write s.mem a b }

/-- STATUS written whole. -/
def State.setStatus (st : Status) (s : State) : State := { s with status := st }

/-- The bus's answer to the host's latest access, recorded (log 9). -/
def State.answered (r : Response) (s : State) : State := { s with response := some r }

/-- What the host does next, replaced (log 1). -/
def State.planned (ops : List HostOp) (s : State) : State := { s with hostOps := ops }

/-! ### Shared effects -/

/-- The effect of a write dropped while busy: STATUS.OVR <- 1 and nothing else (R156, R157, R186). -/
def dropWrite (s : State) : State := s.setStatus s.status.overrun

/-- The error report, which is all that an error does (R183, R189). -/
def raiseError (e : Error) (s : State) : State := s.setStatus (Status.failed e)

/-- A command in its acceptance step: dropped while PHASE = MIX, else its effect (R150, R156). -/
def acceptCommand (effect : State → State) (s : State) : Host.Outcome State Fault Refusal :=
  match s.phase with
  | .mix => .next (dropWrite s)
  | .idle => .next (effect s)

/-- The decoded arguments into ROUNDS, H, BLOCK, T and FFLAG (R114, R152). -/
def writeArguments (args : Arguments) (s : State) : State :=
  { s with
    rounds := args.rounds
    h := args.h
    mem := Memory.store s.mem 0x200 args.block
    t := args.t
    fflag := args.f }

/-- `decode_input(INBUF[0..213), IN_LEN)` on success followed by `after`; on an error only the error report, no argument written
(R152, R154). -/
def decodeThen (after : State → State) (s : State) : State :=
  match decodeInput s.inbuf s.inLen with
  | .error e => raiseError e s
  | .ok args => after (writeArguments args s)

/-- The acceptance pseudocode of COMPRESS (R153). -/
def startCompression (s : State) : State :=
  { s with
    v := initVector s.h s.t s.fflag
    mw := messageWords s.block
    ridx := 0
    phase := .mix
    status := Status.running }

/-- `STATUS <- {DONE: 1}` (R152). -/
def finishDecode (s : State) : State := s.setStatus Status.finished

/-- Sixteen free Words, from the n-th free value on. -/
def freeWords (n : Nat) : Words16 := Vector.ofFn fun k => Config.freeWord (n + k.val)

/-- The reset event: every item at its reset value, V and MW unspecified, hence free (R200; log 4). The outside of the machine
(the host's plans, the turns, the last bus answer) is not CORE's state and stays (log 9). -/
def resetEvent (s : State) : State :=
  { State.reset with
    v := freeWords s.freeIndex
    mw := freeWords (s.freeIndex + 16)
    freeIndex := s.freeIndex + 32
    response := s.response
    hostOps := s.hostOps
    turns := s.turns }

end Sys2Proof.Machine
end

