-- ==== Sys2Proof/Machine/Commands.lean ====
section
/-! DEFINITION. The four commands (R151 to R154): each as the whole effect, in any state, of writing its word to CMD. A command written while busy is dropped (R156; log 16). -/

namespace Sys2Proof.Machine

/-- CLEAR: `STATUS <- {}` (R151). -/
def execClear (s : State) : Host.Outcome State Fault Refusal :=
  acceptCommand (State.setStatus Status.clear) s

/-- DECODE: the frame into the argument registers, DONE; or the error report (R152). -/
def execDecode (s : State) : Host.Outcome State Fault Refusal :=
  acceptCommand (decodeThen finishDecode) s

/-- COMPRESS: starts the compression of the argument registers (R153). -/
def execCompress (s : State) : Host.Outcome State Fault Refusal :=
  acceptCommand startCompression s

/-- DECODE_COMPRESS: DECODE's decoding, then COMPRESS's acceptance on the values just written, in one step (R154). -/
def execDecodeCompress (s : State) : Host.Outcome State Fault Refusal :=
  acceptCommand (decodeThen startCompression) s

end Sys2Proof.Machine
end

