-- ==== Sys2Proof/Machine/Bus.lean ====
section
/-! DEFINITION. The host's accesses (R55 to R58, R150, R155 to R159, R164): what the bus answers and what the access does. -/

namespace Sys2Proof.Machine

/-- A value written to CMD: dropped while busy, without being decoded (R156); else the command it selects, or the error
IllegalCommand (R150). -/
def writeCommand (c : Word) (s : State) : Host.Outcome State Fault Refusal :=
  match s.phase with
  | .mix => .next (dropWrite s)
  | .idle =>
    match decodeCommand c with
    | none => .next (raiseError .illegalCommand s)
    | some i => exec i s

/-- A write to an argument register or a buffer: dropped while busy (R157), else its effect (R159, R164). -/
def writeItem (effect : State → State) (s : State) : Host.Outcome State Fault Refusal :=
  match s.phase with
  | .mix => .next (dropWrite s)
  | .idle => .next (effect s)

/-- RegWrite to a mapped register (R150, R159). A write to a read-only register is a bus error without effect (R57). -/
def writeReg (r : Reg) (v : Word) (s : State) : Host.Outcome State Fault Refusal :=
  match r with
  | .cmd => writeCommand v s
  | .inLen => writeItem (State.setInLen v) s
  | .rounds => writeItem (State.setRounds v) s
  | .fflag => writeItem (State.setFflag v) s
  | .t k => writeItem (State.setT k v) s
  | .h k => writeItem (State.setH k v) s
  | .status => .next s
  | .ridx => .next s
  | .hout _ => .next s
  | .iv _ => .next s

/-- ByteWrite to a mapped byte (R164). A write to a read-only byte is a bus error without effect (R57). -/
def writeByte (item : ByteItem) (b : Byte) (s : State) : Host.Outcome State Fault Refusal :=
  match item with
  | .inbuf k => writeItem (State.setByte (0x100 + k.val) b) s
  | .block k => writeItem (State.setByte (0x200 + k.val) b) s
  | .outbuf _ => .next s
  | .sigma _ _ => .next s
  | .rot _ => .next s

/-- The bus's answer: a bus error on the address alone, else the value read, or Ok for a write, "whatever CORE's state" (R56, R57,
R155, R184). -/
def busResponse (a : Access) (s : State) : Response :=
  match a with
  | .regRead p => match regAt p with
    | some r => .word (readReg r s)
    | none => .busError
  | .regWrite p _ => match regAt p with
    | some r => if r.writable then .ok else .busError
    | none => .busError
  | .byteRead p => match byteAt p with
    | some b => .byte (readByte b s)
    | none => .busError
  | .byteWrite p _ => match byteAt p with
    | some b => if b.writable then .ok else .busError
    | none => .busError

/-- What an access does to CORE: nothing for a read and for a bus error (R56, R63, R158, R164, R185). -/
def busEffect (a : Access) (s : State) : Host.Outcome State Fault Refusal :=
  match a with
  | .regRead _ => .next s
  | .regWrite p v => match regAt p with
    | some r => writeReg r v s
    | none => .next s
  | .byteRead _ => .next s
  | .byteWrite p b => match byteAt p with
    | some item => writeByte item b s
    | none => .next s

/-- One host access: the answer is recorded and the effect happens, in one step (R55, R62). -/
def hostAccess (a : Access) (s : State) : Host.Outcome State Fault Refusal :=
  busEffect a (s.answered (busResponse a s))

/-- The access of one POLL iteration: RegRead of STATUS (R93). -/
def pollAccess : Access := .regRead 0x008#12

/-- POLL ends when bit 0 of the STATUS value it read is 0 (R93). -/
def pollEnds (s : State) : Bool := !(readReg .status s).getLsbD 0

/-- The host's turn: its first operation; a POLL that reads BUSY = 1 stays first (R93). With no operation left the host issues no
access (R196). -/
def hostStep (s : State) : Host.Outcome State Fault Refusal :=
  match s.hostOps with
  | [] => .next s
  | .access a :: rest => hostAccess a (s.planned rest)
  | .poll :: rest => hostAccess pollAccess (s.planned (if pollEnds s then rest else s.hostOps))

end Sys2Proof.Machine
end

