-- ==== Sys2Proof/Machine/Engine.lean ====
section
/-! DEFINITION. The engine's steps (R160, R161). -/

namespace Sys2Proof.Machine

/-- The mixing engine step (R160). -/
def mixStep (s : State) : State :=
  { s with
    v := mixRound s.v s.mw s.ridx.toNat
    ridx := s.ridx + 1 }

/-- The finalisation engine step: HOUT, OUTBUF, STATUS and PHASE in one step (R161). V and MW keep their values (log 5). -/
def finalStep (s : State) : State :=
  { s with
    hout := finalizeVector s.h s.v
    mem := Memory.store s.mem 0x280 (encodeWords (finalizeVector s.h s.v).toList)
    status := s.status.finalised
    phase := .idle }

/-- The engine's turn: it has a step exactly when PHASE = MIX, mixing while RIDX < ROUNDS and finalising at RIDX = ROUNDS (R160,
R161); idle, it does nothing (R196). No rule covers RIDX > ROUNDS, which no run reaches (R37; log 7). -/
def engineStep (s : State) : Host.Outcome State Fault Refusal :=
  match s.phase with
  | .idle => .next s
  | .mix =>
    if s.ridx < s.rounds then .next (mixStep s)
    else if s.ridx = s.rounds then .next (finalStep s)
    else .fault .ridxPastRounds

end Sys2Proof.Machine
end

