-- ==== Sys2Proof/Machine/Schedule.lean ====
section
/-! DEFINITION. Whose turn it is (R11, R64, U9): the interleaving is data in State; when it runs out, the engine goes first while busy (R210) and the host otherwise (log 2). -/

namespace Sys2Proof.Machine

/-- Whose step comes next. -/
def State.turn (s : State) : Turn :=
  match s.turns with
  | t :: _ => t
  | [] => match s.phase with
    | .mix => .engine
    | .idle => .host

/-- The state with its first planned turn used up. -/
def State.afterTurn (s : State) : State := { s with turns := s.turns.tail }

/-- One atomic step of the agent whose turn it is (R11, R200). -/
def runTurn (t : Turn) (s : State) : Host.Outcome State Fault Refusal :=
  match t with
  | .host => hostStep s
  | .engine => engineStep s
  | .reset => .next (resetEvent s)

end Sys2Proof.Machine
end

