-- ==== Sys2Proof/Machine/Step.lean ====
section
/-! DEFINITION. The step of the machine, and how the host of this package places one command word before it. -/

namespace Sys2Proof.Machine

/-- One step of a run: "one sequence of atomic steps: host accesses and engine steps, interleaved in any order" (R64), and
resets (R200). -/
def step (s : State) : Host.Outcome State Fault Refusal := runTurn s.turn s.afterTurn

/-- The state in which the very next step is the host writing the word to CMD: the host's turn is put first, and the RegWrite to
0x000 is put first among the host's operations (log 1). -/
def State.withFetchWord (s : State) (nbits w : Nat) : State :=
  { s with
    turns := .host :: s.turns
    hostOps := .access (.regWrite 0x000#12 (tableWord nbits w)) :: s.hostOps }

end Sys2Proof.Machine
end

