-- ==== Sys2Proof/Machine/HostProgram.lean ====
section
/-! DEFINITION. The host-program notation of R92 and R93 and its expansion into host operations. Where R93 gives a line no meaning (addresses past 0xFFF, other byte counts) the model chooses: log 20. -/

namespace Sys2Proof.Machine

/-- A line of a host program. A register name stands for its address, `Reg.addr` (R92). The line `E` of a trace is an engine turn
in `turns`, not a line. -/
inductive Line where
  | wr (a : Addr) (v : Word)
  | rd (a : Addr)
  | wb (a : Addr) (b : Byte)
  | rb (a : Addr)
  | cmd (i : Instr)
  | wbs (a : Addr) (bs : List Byte)
  | rbs (a : Addr) (n : Nat)
  | wrw (a : Addr) (bs : List Byte)
  | poll
  | frame (bs : List Byte)
  deriving DecidableEq, Repr

/-- `WBS a, b0 b1 ...`: one ByteWrite per byte, in order (R93). Past 0xFFF, where R93 does not say what a+1 is, the 12-bit address
wraps to 0x000. DESIGN CHOICE, unsafe: log 20. -/
def expandBytes (a : Addr) : List Byte → List HostOp
  | [] => []
  | b :: bs => .access (.byteWrite a b) :: expandBytes (a + 1) bs

/-- `RBS a, n`: ByteReads of a, a+1, ..., a+n-1 (R93). Past 0xFFF, where R93 does not say what a+1 is, the 12-bit address wraps to
0x000. DESIGN CHOICE, unsafe: log 20. -/
def expandReads (a : Addr) : Nat → List HostOp
  | 0 => []
  | n + 1 => .access (.byteRead a) :: expandReads (a + 1) n

/-- The host operations a line stands for (R92, R93). R93 gives WRW 8 bytes and FRAME 213; with another count WRW writes the bytes'
little-endian value modulo 2^64 and FRAME writes the bytes it has. DESIGN CHOICE, unsafe: log 20. -/
def Line.expand : Line → List HostOp
  | .wr a v => [.access (.regWrite a v)]
  | .rd a => [.access (.regRead a)]
  | .wb a b => [.access (.byteWrite a b)]
  | .rb a => [.access (.byteRead a)]
  | .cmd i => [.access (.regWrite 0x000#12 (encode i))]
  | .wbs a bs => expandBytes a bs
  | .rbs a n => expandReads a n
  | .wrw a bs => [.access (.regWrite a (leWord bs))]
  | .poll => [.poll]
  | .frame bs => expandBytes 0x100#12 bs ++ [.access (.regWrite (Reg.addr .inLen) 213#64)]

/-- A host program as the host's operations, in order. -/
def expandProgram (p : List Line) : List HostOp := p.flatMap Line.expand

end Sys2Proof.Machine
end

