-- ==== Sys2Proof/Safety.lean ====
section
/-! DEFINITION. The terms claims are stated in: the reset values of R40, the invariants of R29, R31, R37 and R38, runs, a compression carried to its end, and what the host cannot observe. -/

namespace Sys2Proof.Machine

/-- The table of R40, less V and MW, which are unspecified there. -/
def State.HasResetValues (s : State) : Prop :=
  s.rounds = 0 ∧ (∀ k : Fin 8, s.h[k] = 0) ∧ (∀ k : Fin 128, readByte (.block k) s = 0) ∧
  s.t[0] = 0 ∧ s.t[1] = 0 ∧ s.fflag = false ∧ s.inLen = 0 ∧ (∀ k : Fin 213, readByte (.inbuf k) s = 0) ∧
  readReg .cmd s = 0 ∧ s.status.word = 0 ∧ (∀ k : Fin 8, s.hout[k] = 0) ∧
  (∀ k : Fin 64, readByte (.outbuf k) s = 0) ∧ (∀ k : Fin 8, readReg (.iv k) s = Rom.iv[k]) ∧
  (∀ (r : Fin 10) (j : Fin 16), readByte (.sigma r j) s = BitVec.ofNat 8 (Rom.sigma[r][j]).val) ∧
  (∀ k : Fin 4, readByte (.rot k) s = Rom.rot[k]) ∧ s.phase = .idle ∧ s.ridx = 0

/-- The invariants of R29, and that code 3 is never recorded (R104, R181; U4 of 93_implementation_defined.md). -/
abbrev Status.Consistent (st : Status) (p : Phase) : Prop :=
  (st.busy = true ↔ p = .mix) ∧ ¬(st.busy = true ∧ st.done = true) ∧ ¬(st.busy = true ∧ st.err = true) ∧
  ¬(st.done = true ∧ st.err = true) ∧ (st.code ≠ 0 ↔ st.err = true) ∧ st.errcode ≠ some .invalidLength

/-- OUTBUF = encode_words(HOUT) (R31). -/
abbrev State.OutbufMatches (s : State) : Prop := s.outbuf = encodeWords s.hout.toList

/-- While a compression runs: RIDX ≤ ROUNDS (R37), MW = decode_words(BLOCK) (R38), and V holds the first RIDX rounds of the loop
of R131 on the argument registers (R163). -/
abbrev State.MixOnCourse (s : State) : Prop :=
  s.phase = .mix →
    s.ridx ≤ s.rounds ∧ s.mw = messageWords s.block ∧
    s.v = mixRounds (messageWords s.block) s.ridx.toNat (initVector s.h s.t s.fflag)

/-- The invariant of CORE. -/
abbrev State.Inv (s : State) : Prop :=
  Memory.wf s.mem ∧ s.status.Consistent s.phase ∧ s.OutbufMatches ∧ s.MixOnCourse

/-- n steps of the machine, stopping where a step stops. -/
def runFor : Nat → State → Host.Outcome State Fault Refusal
  | 0, s => .next s
  | n + 1, s =>
    match step s with
    | .next t => runFor n t
    | .fault f => .fault f
    | .refused r => .refused r

/-- `Finishes s k t`: from the busy state s the run reaches t, the first idle state, in k engine steps, with any host accesses in
between and no reset (R162, R163). -/
inductive Finishes : State → Nat → State → Prop where
  | final (s t : State) (busy : s.phase = .mix) (turn : s.turn = .engine) (run : step s = .next t)
      (idle : t.phase = .idle) : Finishes s 1 t
  | round (s u t : State) (k : Nat) (busy : s.phase = .mix) (turn : s.turn = .engine) (run : step s = .next u)
      (rest : Finishes u k t) : Finishes s (k + 1) t
  | host (s u t : State) (k : Nat) (busy : s.phase = .mix) (turn : s.turn = .host) (run : step s = .next u)
      (rest : Finishes u k t) : Finishes s k t

/-- The two states differ at most in V and MW, and not even there while a compression runs (R35, R38; U1 of
93_implementation_defined.md). -/
abbrev SameButIdleVectors (s s' : State) : Prop :=
  { s with v := s'.v, mw := s'.mw } = s' ∧ (s.phase = .mix → s.v = s'.v ∧ s.mw = s'.mw)

/-- The reply of the frame's decoder is an error. -/
abbrev DecodeFails (s : State) : Prop :=
  s.inLen ≠ 213#64 ∨ (readByte (.inbuf 212) s ≠ 0x00#8 ∧ readByte (.inbuf 212) s ≠ 0x01#8)

/-- The state with the named argument registers, BLOCK's memory and STATUS put back as in `s`: what a decode may write, undone. -/
abbrev State.withArgumentsOf (t s : State) : State :=
  { t with rounds := s.rounds, h := s.h, t := s.t, fflag := s.fflag, mem := s.mem, status := s.status }

end Sys2Proof.Machine
end

