-- ==== Sys2Proof/Certificates/Slice0/Obligations.lean ====
section
/-! DEFINITION. The statements about CORE for the provers. -/

open Sys2Proof Sys2Proof.Machine

/-! ### Reset and the invariant -/

/-- R40: every item of the reset table that has a value. V and MW have none there, so nothing is said of them. -/
def Obligations.ResetLeavesStatedValues : Prop := State.reset.HasResetValues

/-- R200, R201: in any state, busy or not, a reset is one step to the values of R40. That the host's plans, the remaining turns and
the recorded answer stay is the model's choice (log 9). -/
def Obligations.ResetEventSetsEveryItem : Prop :=
  ∀ s : State, s.turn = .reset → ∃ t, step s = .next t ∧ t.HasResetValues ∧
    t.hostOps = s.hostOps ∧ t.turns = s.turns.tail ∧ t.response = s.response

/-- The invariant holds right after reset. -/
def Obligations.InvariantHoldsAtReset : Prop := State.reset.Inv

/-- Headline: every step keeps the canonical memory, the STATUS invariants of R29, OUTBUF = encode_words(HOUT) of R31, RIDX ≤ ROUNDS
of R37, MW = decode_words(BLOCK) of R38, and the running compression on the loop of R131. -/
def Obligations.StepKeepsInvariant : Prop := ∀ s t : State, s.Inv → step s = .next t → t.Inv

/-- No state of a run stops the machine: errors, bus errors and dropped writes all go on (R180, R182, R187, R203). -/
def Obligations.StepFromInvariantGoesOn : Prop := ∀ s : State, s.Inv → ∃ t, step s = .next t

/-- R29: the fields of the STATUS value, its reserved bits 0, and the invariants at reset and kept by every step. -/
def Obligations.StatusFieldsAndInvariants : Prop :=
  (∀ st : Status, (st.word.getLsbD 0 = st.busy ∧ st.word.getLsbD 1 = st.done ∧ st.word.getLsbD 2 = st.err ∧
    st.word.getLsbD 3 = st.ovr ∧ st.word.extractLsb' 4 4 = 0 ∧ (st.word.extractLsb' 8 4).toNat = st.code ∧
    st.word.extractLsb' 12 52 = 0)) ∧
  State.reset.status = {} ∧ State.reset.status.Consistent State.reset.phase ∧
  (∀ s t : State, s.status.Consistent s.phase → step s = .next t → t.status.Consistent t.phase)

/-! ### Commands -/

/-- R151: CLEAR writes STATUS to 0 and nothing else; while busy it is dropped. -/
def Obligations.ClearZeroesStatus : Prop :=
  (∀ s : State, s.phase = .idle → exec .clear s = .next { s with status := {} }) ∧
  ({} : Status).word = 0 ∧
  (∀ s : State, s.phase = .mix → exec .clear s = .next { s with status := { s.status with ovr := true } })

/-- R152: an accepted DECODE writes the five arguments and DONE, or reports its error and writes nothing else. -/
def Obligations.DecodeWritesArgumentsOrReports : Prop :=
  ∀ s : State, s.phase = .idle → Memory.wf s.mem →
    (s.inLen ≠ 213 →
      exec .decode s = .next { s with status := { err := true, errcode := some .invalidInputLength } }) ∧
    (s.inLen = 213 → readByte (.inbuf 212) s ≠ 0 → readByte (.inbuf 212) s ≠ 1 →
      exec .decode s = .next { s with status := { err := true, errcode := some .invalidFinalFlag } }) ∧
    (s.inLen = 213 → readByte (.inbuf 212) s = 0 ∨ readByte (.inbuf 212) s = 1 →
      ∃ t, exec .decode s = .next t ∧
        t.rounds = (frameArguments s.inbuf).rounds ∧ t.h = (frameArguments s.inbuf).h ∧
        t.block = (frameArguments s.inbuf).block ∧ t.t = (frameArguments s.inbuf).t ∧
        t.fflag = (frameArguments s.inbuf).f ∧ t.status = { done := true } ∧
        t.inbuf = s.inbuf ∧ t.outbuf = s.outbuf ∧ t.withArgumentsOf s = s)

/-- R153, the acceptance step: COMPRESS initialises V and MW, sets RIDX to 0 and PHASE to MIX, and STATUS to BUSY. The steps that
follow are stated of `Finishes` below. -/
def Obligations.CompressAccepted : Prop :=
  ∀ s : State, s.phase = .idle → exec .compress s = .next
    { s with
      v := initVector s.h s.t s.fflag
      mw := messageWords s.block
      ridx := 0
      phase := .mix
      status := { busy := true } }

/-- R154: DECODE_COMPRESS reports as DECODE does, or writes the arguments and starts the compression on them in the same step. -/
def Obligations.DecodeCompressAcceptedOrReports : Prop :=
  ∀ s : State, s.phase = .idle → Memory.wf s.mem →
    (s.inLen ≠ 213 →
      exec .decodeCompress s = .next { s with status := { err := true, errcode := some .invalidInputLength } }) ∧
    (s.inLen = 213 → readByte (.inbuf 212) s ≠ 0 → readByte (.inbuf 212) s ≠ 1 →
      exec .decodeCompress s = .next { s with status := { err := true, errcode := some .invalidFinalFlag } }) ∧
    (s.inLen = 213 → readByte (.inbuf 212) s = 0 ∨ readByte (.inbuf 212) s = 1 →
      ∃ t, exec .decodeCompress s = .next t ∧
        t.rounds = (frameArguments s.inbuf).rounds ∧ t.h = (frameArguments s.inbuf).h ∧
        t.block = (frameArguments s.inbuf).block ∧ t.t = (frameArguments s.inbuf).t ∧
        t.fflag = (frameArguments s.inbuf).f ∧ t.inbuf = s.inbuf ∧ t.inLen = s.inLen ∧
        t.outbuf = s.outbuf ∧ t.hout = s.hout ∧
        t.v = initVector t.h t.t t.fflag ∧ t.mw = messageWords t.block ∧ t.ridx = 0 ∧ t.phase = .mix ∧
        t.status = { busy := true })

/-- R156: any command word written while busy is dropped, decoded or not, with STATUS.OVR set and nothing else changed. -/
def Obligations.CommandWhileBusyIsDropped : Prop :=
  ∀ s : State, s.phase = .mix →
    (∀ i : Instr, exec i s = .next { s with status := { s.status with ovr := true } }) ∧
    (∀ c : Word, hostAccess (.regWrite 0x000 c) s =
      .next { s with status := { s.status with ovr := true }, response := some .ok })

/-- R90: a word with RSV ≠ 0 or OP in 0x04 to 0xFF, written while idle, does nothing but report IllegalCommand (STATUS reads
0x404); the bus answers Ok. Written while busy, any word, legal or not, is dropped and sets OVR. -/
def Obligations.IllegalCommandOnlyReports : Prop :=
  (∀ (s : State) (c : Word), (c.extractLsb' 8 56 ≠ 0 ∨ 0x04 ≤ (c.extractLsb' 0 8).toNat) → s.phase = .idle →
    hostAccess (.regWrite 0x000 c) s =
      .next { s with status := { err := true, errcode := some .illegalCommand }, response := some .ok }) ∧
  (∀ (s : State) (c : Word), s.phase = .mix → hostAccess (.regWrite 0x000 c) s =
    .next { s with status := { s.status with ovr := true }, response := some .ok }) ∧
  ({ err := true, errcode := some .illegalCommand } : Status).word = 0x404

/-- R184: one CMD write that meets several error conditions reports the first of busy, IllegalCommand, InvalidInputLength,
InvalidFinalFlag. -/
def Obligations.ErrorPriority : Prop :=
  ∀ (s : State) (c : Word), ∃ t, hostAccess (.regWrite 0x000 c) s = .next t ∧ t.response = some .ok ∧
    (s.phase = .mix → t.status = { s.status with ovr := true }) ∧
    (s.phase = .idle → ¬CommandWord.Legal c → t.status = { err := true, errcode := some .illegalCommand }) ∧
    (s.phase = .idle → c = 0x1 ∨ c = 0x3 → s.inLen ≠ 213 →
      t.status = { err := true, errcode := some .invalidInputLength }) ∧
    (s.phase = .idle → c = 0x1 ∨ c = 0x3 → s.inLen = 213 →
      readByte (.inbuf 212) s ≠ 0 → readByte (.inbuf 212) s ≠ 1 →
      t.status = { err := true, errcode := some .invalidFinalFlag })

/-- CLEAR changes no register, flag, special register or byte but STATUS; dropped, only OVR. -/
def Obligations.FrameOfClear : Prop :=
  ∀ s t : State, exec .clear s = .next t →
    { t with status := s.status } = s ∧ (∀ a, Memory.read t.mem a = Memory.read s.mem a) ∧
    (s.phase = .mix → t.status = { s.status with ovr := true })

/-- DECODE changes no register but ROUNDS, H, T, FFLAG and STATUS, and no byte but BLOCK's 128 at 0x200; where it reports an error
or is dropped, only STATUS, and dropped, only OVR. -/
def Obligations.FrameOfDecode : Prop :=
  ∀ s t : State, Memory.wf s.mem → exec .decode s = .next t →
    t.withArgumentsOf s = s ∧
    (∀ a, ¬(0x200 ≤ a ∧ a < 0x200 + 128) → Memory.read t.mem a = Memory.read s.mem a) ∧
    (s.phase = .mix ∨ DecodeFails s → { t with status := s.status } = s) ∧
    (s.phase = .mix → t.status = { s.status with ovr := true })

/-- COMPRESS changes no register but V, MW, RIDX, PHASE and STATUS, and no byte; dropped, only OVR. -/
def Obligations.FrameOfCompress : Prop :=
  ∀ s t : State, exec .compress s = .next t →
    { t with v := s.v, mw := s.mw, ridx := s.ridx, phase := s.phase, status := s.status } = s ∧
    (∀ a, Memory.read t.mem a = Memory.read s.mem a) ∧
    (s.phase = .mix → t = { s with status := { s.status with ovr := true } })

/-- DECODE_COMPRESS changes what DECODE and COMPRESS change, and BLOCK's 128 bytes at 0x200; where it reports an error or is
dropped, only STATUS, and dropped, only OVR. -/
def Obligations.FrameOfDecodeCompress : Prop :=
  ∀ s t : State, Memory.wf s.mem → exec .decodeCompress s = .next t →
    { t.withArgumentsOf s with v := s.v, mw := s.mw, ridx := s.ridx, phase := s.phase } = s ∧
    (∀ a, ¬(0x200 ≤ a ∧ a < 0x200 + 128) → Memory.read t.mem a = Memory.read s.mem a) ∧
    (s.phase = .mix ∨ DecodeFails s → { t with status := s.status } = s) ∧
    (s.phase = .mix → t.status = { s.status with ovr := true })

/-! ### Encodings -/

/-- The four command words of R89, written out, decode to their commands; neighbours do not. -/
def Obligations.CommandWordsDecode : Prop :=
  decodeCommand 0x0000000000000000 = some .clear ∧ decodeCommand 0x0000000000000001 = some .decode ∧
  decodeCommand 0x0000000000000002 = some .compress ∧ decodeCommand 0x0000000000000003 = some .decodeCompress ∧
  decodeCommand 0x0000000000000004 = none ∧ decodeCommand 0x0000000000000102 = none ∧
  decodeCommand 0x8000000000000001 = none

/-- A word is one of the four values of R89, and then decodes to that one command, or it is illegal by R90. The spec says it in R91,
marked as derived from R89 and R90. -/
def Obligations.CommandDecodingIsTotal : Prop :=
  (∀ (c : Word) (i : Instr), decodeCommand c = some i ↔ c = encode i) ∧
  (∀ c : Word, decodeCommand c = none ↔ (c.extractLsb' 8 56 ≠ 0 ∨ 0x04 ≤ (c.extractLsb' 0 8).toNat)) ∧
  (∀ c : Word, decodeCommand c = none ↔ (c ≠ 0x0 ∧ c ≠ 0x1 ∧ c ≠ 0x2 ∧ c ≠ 0x3))

/-- Headline: the frame of R81 holds its five arguments without loss. Every tuple with a 128-byte block is decoded from its frame,
and every 213-byte frame that decodes is the frame of what it decodes to. -/
def Obligations.FrameEncodingRoundTrip : Prop :=
  (∀ args : Arguments, args.block.length = 128 →
    (encodeFrame args).length = 213 ∧ decodeInput (encodeFrame args) 213 = .ok args) ∧
  (∀ (frame : List Byte) (n : Word) (args : Arguments), frame.length = 213 →
    decodeInput frame n = .ok args → encodeFrame args = frame)

/-- R82 to R86: each field of a 213-byte frame at its offset and in its byte order. -/
def Obligations.FrameFieldsAtTheirOffsets : Prop :=
  ∀ frame : List Byte, frame.length = 213 →
    (let b := fun j => (frame.getD j 0).toNat
    (frameArguments frame).rounds.toNat = b 0 * 2 ^ 24 + b 1 * 2 ^ 16 + b 2 * 2 ^ 8 + b 3 ∧
    (∀ k : Fin 8, (frameArguments frame).h[k].toNat = ∑ j ∈ Finset.range 8, b (4 + 8 * k.val + j) * 2 ^ (8 * j)) ∧
    (∀ j < 128, (frameArguments frame).block.getD j 0 = frame.getD (68 + j) 0) ∧
    (frameArguments frame).block.length = 128 ∧
    (∀ k : Fin 16, (messageWords (frameArguments frame).block)[k].toNat =
      ∑ j ∈ Finset.range 8, b (68 + 8 * k.val + j) * 2 ^ (8 * j)) ∧
    (∀ k : Fin 2, (frameArguments frame).t[k].toNat =
      ∑ j ∈ Finset.range 8, b (196 + 8 * k.val + j) * 2 ^ (8 * j)) ∧
    (b 212 = 0 → decodeInput frame 213 = .ok (frameArguments frame) ∧ (frameArguments frame).f = false) ∧
    (b 212 = 1 → decodeInput frame 213 = .ok (frameArguments frame) ∧ (frameArguments frame).f = true) ∧
    (2 ≤ b 212 → decodeInput frame 213 = .error .invalidFinalFlag))

/-- R111, R112, R113, R115: the length check first, then the final-flag check, and no other. -/
def Obligations.DecoderChecksInOrder : Prop :=
  ∀ (frame : List Byte) (n : Word),
    (n ≠ 213 → decodeInput frame n = .error .invalidInputLength) ∧
    (frame.length = 213 → n = 213 → frame.getLast? ≠ some 0x00 → frame.getLast? ≠ some 0x01 →
      decodeInput frame n = .error .invalidFinalFlag) ∧
    (frame.length = 213 → n = 213 → frame.getLast? = some 0x00 ∨ frame.getLast? = some 0x01 →
      ∃ args, decodeInput frame n = .ok args)

/-- The codec loses nothing in either direction. The spec says it in R103, marked as derived from R100 and R101. -/
def Obligations.CodecRoundTrip : Prop :=
  (∀ b : List Byte, b.length % 8 = 0 → ∃ ws, decodeWords b = .ok ws ∧ encodeWords ws = b) ∧
  (∀ ws : List Word, decodeWords (encodeWords ws) = .ok ws) ∧
  (∀ ws : List Word, (encodeWords ws).length = 8 * ws.length)

/-- R100, R101: decode_words fails exactly off the multiples of 8 and reads Words least-significant byte first; encode_words puts
byte j of Word k at 8k + j. -/
def Obligations.CodecIsLittleEndian : Prop :=
  (∀ b : List Byte, b.length % 8 ≠ 0 → decodeWords b = .error .invalidLength) ∧
  (∀ b : List Byte, b.length % 8 = 0 → ∃ ws, decodeWords b = .ok ws ∧ ws.length = b.length / 8 ∧
    ∀ k < b.length / 8, (ws.getD k 0).toNat = ∑ j ∈ Finset.range 8, (b.getD (8 * k + j) 0).toNat * 2 ^ (8 * j)) ∧
  (∀ (ws : List Word), (encodeWords ws).length = 8 * ws.length ∧
    ∀ k < ws.length, ∀ j < 8, (encodeWords ws).getD (8 * k + j) 0 = (ws.getD k 0).extractLsb' (8 * j) 8)

/-- R102: the rounds field is read most-significant byte first. -/
def Obligations.RoundsFieldIsBigEndian : Prop :=
  ∀ b0 b1 b2 b3 : Byte,
    (decodeBE32 [b0, b1, b2, b3]).toNat = b0.toNat * 2 ^ 24 + b1.toNat * 2 ^ 16 + b2.toNat * 2 ^ 8 + b3.toNat

/-- R51, R52, R53: every register and every mapped byte is found at its address and no address names two; each multiple of 8 from
0x000 to 0x0F8 is a register; the mapped bytes are 0x100 to 0x1D4 and 0x200 to 0x363. -/
def Obligations.AddressMapRoundTrip : Prop :=
  (∀ r : Reg, regAt r.addr = some r) ∧ (∀ (a : Addr) (r : Reg), regAt a = some r → a = r.addr) ∧
  (∀ b : ByteItem, byteAt b.addr = some b) ∧ (∀ (a : Addr) (b : ByteItem), byteAt a = some b → a = b.addr) ∧
  (∀ a : Addr, (regAt a).isSome ↔ (a.toNat % 8 = 0 ∧ a.toNat ≤ 0x0F8)) ∧
  (∀ a : Addr, (byteAt a).isSome ↔ ((0x100 ≤ a.toNat ∧ a.toNat ≤ 0x1D4) ∨ (0x200 ≤ a.toNat ∧ a.toNat ≤ 0x363)))

/-! ### Steps and turns -/

/-- A step in the host's turn, with a RegWrite of a command word to CMD first, is exec of the command it decodes to, on the state
in which the turn and the access are used up and the bus has answered Ok. -/
def Obligations.StepRunsTheWrittenCommand : Prop :=
  ∀ (s : State) (c : Word) (i : Instr) (rest : List HostOp),
    s.turn = .host → s.hostOps = .access (.regWrite 0x000 c) :: rest → decodeCommand c = some i →
    step s = exec i { s with turns := s.turns.tail, hostOps := rest, response := some .ok }

/-- The very next step after `withFetchWord` runs the word it places. -/
def Obligations.PlacedWordRunsNext : Prop :=
  ∀ (s : State) (nbits w : Nat) (i : Instr), decodeTableWord nbits w = some i →
    step (s.withFetchWord nbits w) = exec i { s with response := some .ok }

/-- Whose turn it is: a step is the step of the first planned turn's agent, or a reset, with that turn used up; with none planned
the engine steps while busy and the host while idle. That default is the model's choice (log 2). A host turn without an operation
and an engine turn while idle change nothing (R196). -/
def Obligations.TurnsFollowTheSchedule : Prop :=
  (∀ (s : State) (t : Turn) (ts : List Turn), s.turns = t :: ts →
    s.turn = t ∧ s.afterTurn = { s with turns := ts } ∧ step s = runTurn t { s with turns := ts }) ∧
  (∀ (s : State) (ts : List Turn), s.turns = .engine :: ts → step s = engineStep { s with turns := ts }) ∧
  (∀ (s : State) (ts : List Turn), s.turns = .host :: ts → step s = hostStep { s with turns := ts }) ∧
  (∀ (s : State) (ts : List Turn), s.turns = .reset :: ts → step s = .next (resetEvent { s with turns := ts })) ∧
  (∀ s : State, s.turns = [] → s.phase = .mix → step s = engineStep s) ∧
  (∀ s : State, s.turns = [] → s.phase = .idle → step s = hostStep s) ∧
  (∀ s : State, s.hostOps = [] → hostStep s = .next s) ∧
  (∀ s : State, s.phase = .idle → engineStep s = .next s)

/-- R93, POLL: each iteration reads STATUS; it is repeated while bit 0 of the value read is 1 and ends when it is 0. -/
def Obligations.PollRepeatsWhileBusy : Prop :=
  ∀ (s : State) (rest : List HostOp), s.hostOps = .poll :: rest →
    (s.status.busy = true → hostStep s = .next { s with response := some (.word s.status.word) }) ∧
    (s.status.busy = false →
      hostStep s = .next { s with hostOps := rest, response := some (.word s.status.word) })

/-- R93, FRAME: from an idle machine the expansion of FRAME on 213 bytes leaves the bytes in INBUF and 213 in IN_LEN, and the rest
of CORE as it was. -/
def Obligations.FramePseudoOperationLoadsTheFrame : Prop :=
  ∀ (s : State) (bs : List Byte), s.phase = .idle → Memory.wf s.mem → s.turns = [] → bs.length = 213 →
    s.hostOps = (Line.frame bs).expand →
    ∃ t, runFor 214 s = .next t ∧ t.inbuf = bs ∧ t.inLen = 213 ∧ t.hostOps = [] ∧ t.block = s.block ∧
      t.outbuf = s.outbuf ∧
      { t with mem := s.mem, inLen := s.inLen, hostOps := s.hostOps, response := s.response } = s

/-! ### Host accesses -/

/-- R158: what a RegRead returns, busy or not, with no state changed. -/
def Obligations.RegisterReadsReturnItems : Prop :=
  ∀ s : State,
    let returns := fun (a : Addr) (v : Word) => hostAccess (.regRead a) s = .next { s with response := some (.word v) }
    returns 0x000 0 ∧ returns 0x008 s.status.word ∧ returns 0x010 s.inLen ∧ returns 0x018 (s.rounds.setWidth 64) ∧
    returns 0x020 (if s.fflag then 1 else 0) ∧ returns 0x028 (s.ridx.setWidth 64) ∧
    returns 0x030 s.t[0] ∧ returns 0x038 s.t[1] ∧
    (∀ k : Fin 8, returns (0x040 + 8 * BitVec.ofNat 12 k) s.h[k]) ∧
    (∀ k : Fin 8, returns (0x080 + 8 * BitVec.ofNat 12 k) s.hout[k]) ∧
    (∀ k : Fin 8, returns (0x0C0 + 8 * BitVec.ofNat 12 k) Rom.iv[k])

/-- R159: what a RegWrite to an argument register does while idle. -/
def Obligations.RegisterWritesWhileIdle : Prop :=
  ∀ (s : State) (v : Word), s.phase = .idle →
    hostAccess (.regWrite 0x010 v) s = .next { s with inLen := v, response := some .ok } ∧
    hostAccess (.regWrite 0x018 v) s =
      .next { s with rounds := BitVec.ofNat 32 v.toNat, response := some .ok } ∧
    hostAccess (.regWrite 0x020 v) s =
      .next { s with fflag := decide (v.toNat % 2 = 1), response := some .ok } ∧
    hostAccess (.regWrite 0x030 v) s = .next { s with t := #v[v, s.t[1]], response := some .ok } ∧
    hostAccess (.regWrite 0x038 v) s = .next { s with t := #v[s.t[0], v], response := some .ok } ∧
    (∀ k : Fin 8, hostAccess (.regWrite (0x040 + 8 * BitVec.ofNat 12 k) v) s =
      .next { s with h := s.h.set k v, response := some .ok })

/-- R157: a write to an argument register or to a byte of INBUF or BLOCK while busy is dropped: Ok, OVR set, nothing else. -/
def Obligations.ItemWritesWhileBusyAreDropped : Prop :=
  ∀ s : State, s.phase = .mix →
    (∀ (a : Addr) (v : Word), a.toNat % 8 = 0 → a.toNat ≤ 0x078 → a ≠ 0x008 → a ≠ 0x028 →
      hostAccess (.regWrite a v) s =
        .next { s with status := { s.status with ovr := true }, response := some .ok }) ∧
    (∀ (a : Addr) (b : Byte), (0x100 ≤ a.toNat ∧ a.toNat ≤ 0x1D4) ∨ (0x200 ≤ a.toNat ∧ a.toNat ≤ 0x27F) →
      hostAccess (.byteWrite a b) s =
        .next { s with status := { s.status with ovr := true }, response := some .ok })

/-- R54, R56, R57, R185: the bus errors, and that they change nothing. -/
def Obligations.BusErrorsHaveNoEffect : Prop :=
  ∀ (s : State) (a : Addr) (v : Word) (b : Byte),
    let fails := fun x => hostAccess x s = .next { s with response := some .busError }
    ((a.toNat % 8 ≠ 0 ∨ 0x0FF < a.toNat) → fails (.regRead a) ∧ fails (.regWrite a v)) ∧
    ((a.toNat < 0x100 ∨ (0x1D5 ≤ a.toNat ∧ a.toNat ≤ 0x1FF) ∨ 0x364 ≤ a.toNat) →
      fails (.byteRead a) ∧ fails (.byteWrite a b)) ∧
    ((a = 0x008 ∨ a = 0x028 ∨ (0x080 ≤ a.toNat ∧ a.toNat ≤ 0x0FF)) → fails (.regWrite a v)) ∧
    (0x280 ≤ a.toNat → fails (.byteWrite a b))

/-- R164, ByteRead: what it returns, busy or not, with no state changed. -/
def Obligations.ByteReadsReturnItems : Prop :=
  ∀ (s : State) (a : Addr),
    let returns := fun (b : Byte) => hostAccess (.byteRead a) s = .next { s with response := some (.byte b) }
    ((0x100 ≤ a.toNat ∧ a.toNat ≤ 0x1D4) → returns (s.inbuf.getD (a.toNat - 0x100) 0)) ∧
    ((0x200 ≤ a.toNat ∧ a.toNat ≤ 0x27F) → returns (s.block.getD (a.toNat - 0x200) 0)) ∧
    ((0x280 ≤ a.toNat ∧ a.toNat ≤ 0x2BF) → returns (s.outbuf.getD (a.toNat - 0x280) 0)) ∧
    (∀ (r : Fin 10) (j : Fin 16), a.toNat = 0x2C0 + 16 * r.val + j.val →
      returns (BitVec.ofNat 8 (Rom.sigma[r][j]).val)) ∧
    (∀ k : Fin 4, a.toNat = 0x360 + k.val → returns Rom.rot[k])

/-- R164, ByteWrite while idle: the one byte of INBUF or BLOCK is written, every other byte and all else stays. -/
def Obligations.ByteWritesWhileIdle : Prop :=
  ∀ (s : State) (a : Addr) (b : Byte), s.phase = .idle → Memory.wf s.mem →
    (0x100 ≤ a.toNat ∧ a.toNat ≤ 0x1D4) ∨ (0x200 ≤ a.toNat ∧ a.toNat ≤ 0x27F) →
    ∃ t, hostAccess (.byteWrite a b) s = .next t ∧ t.response = some .ok ∧
      Memory.read t.mem a.toNat = b ∧ (∀ x, x ≠ a.toNat → Memory.read t.mem x = Memory.read s.mem x) ∧
      { t with mem := s.mem, response := s.response } = s

/-- R32, R33, R34, R43: the ROMs read as the spec's tables in every state, and every write to them is a bus error without effect. The
values of IV and SIGMA are the spec's from general knowledge (log 10). -/
def Obligations.RomsReadAsTablesAndNeverChange : Prop :=
  ∀ s : State,
    ((List.finRange 8).map fun k => readReg (.iv k) s) =
      [0x6A09E667F3BCC908, 0xBB67AE8584CAA73B, 0x3C6EF372FE94F82B, 0xA54FF53A5F1D36F1,
       0x510E527FADE682D1, 0x9B05688C2B3E6C1F, 0x1F83D9ABFB41BD6B, 0x5BE0CD19137E2179] ∧
    ((List.finRange 10).map fun r => (List.finRange 16).map fun j => (readByte (.sigma r j) s).toNat) =
      [[0, 1, 2, 3, 4, 5, 6, 7, 8, 9, 10, 11, 12, 13, 14, 15],
       [14, 10, 4, 8, 9, 15, 13, 6, 1, 12, 0, 2, 11, 7, 5, 3],
       [11, 8, 12, 0, 5, 2, 15, 13, 10, 14, 3, 6, 7, 1, 9, 4],
       [7, 9, 3, 1, 13, 12, 11, 14, 2, 6, 5, 10, 4, 0, 15, 8],
       [9, 0, 5, 7, 2, 4, 10, 15, 14, 1, 11, 12, 6, 8, 3, 13],
       [2, 12, 6, 10, 0, 11, 8, 3, 4, 13, 7, 5, 15, 14, 1, 9],
       [12, 5, 1, 15, 14, 13, 4, 10, 0, 7, 6, 3, 9, 2, 8, 11],
       [13, 11, 7, 14, 12, 1, 3, 9, 5, 0, 15, 4, 8, 6, 2, 10],
       [6, 15, 14, 9, 11, 3, 0, 8, 12, 2, 13, 7, 1, 4, 10, 5],
       [10, 2, 8, 4, 7, 6, 1, 5, 15, 11, 9, 14, 3, 12, 13, 0]] ∧
    ((List.finRange 4).map fun k => (readByte (.rot k) s).toNat) = [32, 24, 16, 63] ∧
    (∀ (k : Fin 8) (v : Word), hostAccess (.regWrite (Reg.iv k).addr v) s =
      .next { s with response := some .busError }) ∧
    (∀ (r : Fin 10) (j : Fin 16) (b : Byte), hostAccess (.byteWrite (ByteItem.sigma r j).addr b) s =
      .next { s with response := some .busError }) ∧
    (∀ (k : Fin 4) (b : Byte), hostAccess (.byteWrite (ByteItem.rot k).addr b) s =
      .next { s with response := some .busError })

/-! ### The engine -/

/-- R160: the engine has a step exactly when PHASE = MIX; with RIDX < ROUNDS it is one round with index RIDX, and RIDX + 1. In a
state with RIDX above ROUNDS, which no run reaches (R37), see `EngineStopsPastRounds`. -/
def Obligations.MixingStepRunsOneRound : Prop :=
  (∀ s : State, s.phase = .mix → s.ridx.toNat < s.rounds.toNat →
    engineStep s = .next { s with v := mixRound s.v s.mw s.ridx.toNat, ridx := s.ridx + 1 }) ∧
  (∀ s : State, s.phase = .mix → s.ridx.toNat ≤ s.rounds.toNat → ∃ t, engineStep s = .next t ∧ t ≠ s) ∧
  (∀ s : State, s.phase = .idle → engineStep s = .next s)

/-- R161: at RIDX = ROUNDS the engine step writes HOUT, OUTBUF, STATUS and PHASE, and leaves every other byte and item. Nothing is
said of V and MW, which keep "values no rule reads again" (log 5). -/
def Obligations.FinalStepWritesTheResult : Prop :=
  ∀ s : State, s.phase = .mix → s.ridx = s.rounds → Memory.wf s.mem →
    ∃ t, engineStep s = .next t ∧
      (∀ k : Fin 8, t.hout[k] = s.h[k] ^^^ s.v[k.val] ^^^ s.v[k.val + 8]) ∧
      t.outbuf = encodeWords t.hout.toList ∧
      t.status = { done := true, ovr := s.status.ovr } ∧ t.phase = .idle ∧
      (∀ a, ¬(0x280 ≤ a ∧ a < 0x280 + 64) → Memory.read t.mem a = Memory.read s.mem a) ∧
      { t with hout := s.hout, mem := s.mem, status := s.status, phase := s.phase, v := s.v, mw := s.mw } = s

/-- Where no rule gives the engine a step (RIDX above ROUNDS while busy, in no run), the machine stops by name: the model's choice,
log 7. -/
def Obligations.EngineStopsPastRounds : Prop :=
  ∀ s : State, s.phase = .mix → s.rounds.toNat < s.ridx.toNat → engineStep s = .fault .ridxPastRounds

/-! ### The datapath -/

/-- R122: bit k of rotr64(x, n) is bit (k + n) mod 64 of x, for the four rotation amounts. -/
def Obligations.RotationMovesBits : Prop :=
  ∀ (x : Word) (n k : Nat), n ∈ [32, 24, 16, 63] → k < 64 → (rotr64 x n).getLsbD k = x.getLsbD ((k + n) % 64)

/-- R123: G on four distinct lanes: their new values, with Lean's own rotation, and every other lane unchanged. -/
def Obligations.MixingFunctionUpdatesFourLanes : Prop :=
  ∀ (v : Words16) (a b c d : Fin 16) (x y : Word), [a, b, c, d].Nodup →
    let a1 := v[a] + v[b] + x
    let d1 := (v[d] ^^^ a1).rotateRight 32
    let c1 := v[c] + d1
    let b1 := (v[b] ^^^ c1).rotateRight 24
    let a2 := a1 + b1 + y
    let d2 := (d1 ^^^ a2).rotateRight 16
    let c2 := c1 + d2
    let b2 := (b1 ^^^ c2).rotateRight 63
    (mixG v a b c d x y)[a] = a2 ∧ (mixG v a b c d x y)[b] = b2 ∧ (mixG v a b c d x y)[c] = c2 ∧
    (mixG v a b c d x y)[d] = d2 ∧ (∀ k : Fin 16, k ∉ [a, b, c, d] → (mixG v a b c d x y)[k] = v[k])

/-- R124, derived there: two G calls on disjoint lanes can be made in either order. -/
def Obligations.CallsOnDisjointLanesCommute : Prop :=
  ∀ (v : Words16) (a b c d a' b' c' d' : Fin 16) (x y x' y' : Word), [a, b, c, d, a', b', c', d'].Nodup →
    mixG (mixG v a b c d x y) a' b' c' d' x' y' = mixG (mixG v a' b' c' d' x' y') a b c d x y

/-- R127, R128: the lanes of the initial vector; the final flag flips all bits of lane 14 and touches no other. -/
def Obligations.InitialVectorLanes : Prop :=
  ∀ (h : Words8) (t : Vector Word 2) (f : Bool),
    (∀ k : Fin 8, (initVector h t f)[k.val] = h[k]) ∧
    (∀ k : Fin 4, (initVector h t f)[8 + k.val] = Rom.iv[k.val]) ∧
    (initVector h t f)[12] = t[0] ^^^ Rom.iv[4] ∧ (initVector h t f)[13] = t[1] ^^^ Rom.iv[5] ∧
    (initVector h t false)[14] = Rom.iv[6] ∧ (initVector h t true)[14] = ~~~Rom.iv[6] ∧
    (initVector h t f)[15] = Rom.iv[7] ∧
    (∀ k : Fin 16, k ≠ 14 → (initVector h t true)[k] = (initVector h t false)[k])

/-- With no rounds the result is v[8..16) of INIT, whatever h and the block are. The spec says it in R132, marked as derived from
R127 and R130. -/
def Obligations.ZeroRoundsResult : Prop :=
  ∀ (h : Words8) (block : List Byte) (t : Vector Word 2) (f : Bool),
    compress 0 h block t f =
      #v[Rom.iv[0], Rom.iv[1], Rom.iv[2], Rom.iv[3], t[0] ^^^ Rom.iv[4], t[1] ^^^ Rom.iv[5],
         if f then ~~~Rom.iv[6] else Rom.iv[6], Rom.iv[7]]

/-- R124, R125, R126: ROUND(v, m, i) is the eight G calls of the table of R124 in order, with the row SIGMA[i mod 10]. Each row is a
permutation of 0 to 15 (R33; its values are the spec's from general knowledge, log 10), and row 10q + j is row j. Rounds i and
i + 10 are the same function: the spec says it in R134, marked as derived from R125. -/
def Obligations.ScheduleIsPeriodicPermutations : Prop :=
  (∀ (i : Nat) (k : Fin 16), ∃! j : Fin 16, (sigmaRow i)[j] = k) ∧
  (∀ (q : Nat) (j : Fin 10), sigmaRow (10 * q + j.val) = Rom.sigma[j]) ∧
  (∀ (v m : Words16) (i : Nat), mixRound v m (i + 10) = mixRound v m i) ∧
  (∀ (v m : Words16) (i : Nat),
    let s := Rom.sigma[(⟨i % 10, Nat.mod_lt i (Nat.zero_lt_succ 9)⟩ : Fin 10)]
    let v0 := mixG v 0 4 8 12 m[s[0]] m[s[1]]
    let v1 := mixG v0 1 5 9 13 m[s[2]] m[s[3]]
    let v2 := mixG v1 2 6 10 14 m[s[4]] m[s[5]]
    let v3 := mixG v2 3 7 11 15 m[s[6]] m[s[7]]
    let v4 := mixG v3 0 5 10 15 m[s[8]] m[s[9]]
    let v5 := mixG v4 1 6 11 12 m[s[10]] m[s[11]]
    let v6 := mixG v5 2 7 8 13 m[s[12]] m[s[13]]
    mixRound v m i = mixG v6 3 4 9 14 m[s[14]] m[s[15]])

/-! ### Whole-machine rules -/

/-- Between acceptance and the end of a compression there are exactly ROUNDS + 1 engine steps, however many host accesses fall
between them. The spec says it in R162, marked as derived from R153, R160 and R161. -/
def Obligations.CompressionStepCount : Prop :=
  ∀ (s t : State) (k : Nat), s.phase = .mix → s.ridx = 0 → Finishes s k t → k = s.rounds.toNat + 1

/-- Headline: whatever host accesses are interleaved, an accepted COMPRESS ends with HOUT = compress(ROUNDS, H, BLOCK, T,
FFLAG) of the values at acceptance, OUTBUF its encoding, DONE without BUSY or ERR, and the argument registers unchanged; and so
does DECODE_COMPRESS with the decoded arguments. The spec says it in R163, marked as derived from R153, R157, R160 and R161. -/
def Obligations.CompressionResult : Prop :=
  (∀ (s u t : State) (k : Nat), s.phase = .idle → Memory.wf s.mem → exec .compress s = .next u → Finishes u k t →
    t.hout = compress s.rounds.toNat s.h s.block s.t s.fflag ∧ t.outbuf = encodeWords t.hout.toList ∧
    t.status.done = true ∧ t.status.busy = false ∧ t.status.err = false ∧
    t.rounds = s.rounds ∧ t.h = s.h ∧ t.block = s.block ∧ t.t = s.t ∧ t.fflag = s.fflag) ∧
  (∀ (s u t : State) (k : Nat) (args : Arguments), s.phase = .idle → Memory.wf s.mem →
    decodeInput s.inbuf s.inLen = .ok args → exec .decodeCompress s = .next u → Finishes u k t →
    t.hout = compress args.rounds.toNat args.h args.block args.t args.f ∧ t.outbuf = encodeWords t.hout.toList ∧
    t.status.done = true ∧ t.status.busy = false ∧ t.status.err = false ∧
    t.rounds = args.rounds ∧ t.h = args.h ∧ t.block = args.block ∧ t.t = args.t ∧ t.fflag = args.f)

/-- R210, R162: an accepted COMPRESS, and an accepted DECODE_COMPRESS whose frame decodes, finishes after finitely many steps, for
every plan of host accesses and turns without a reset. That the engine goes first when the planned turns run out is the model's form of the spec's fairness (log 2). -/
def Obligations.CompressionFinishes : Prop :=
  (∀ s u : State, s.phase = .idle → Turn.reset ∉ s.turns → exec .compress s = .next u →
    ∃ t, Finishes u (s.rounds.toNat + 1) t ∧
      ∃ n ≤ s.turns.length + s.rounds.toNat + 1, runFor n u = .next t) ∧
  (∀ (s u : State) (args : Arguments), s.phase = .idle → Turn.reset ∉ s.turns →
    decodeInput s.inbuf s.inLen = .ok args → exec .decodeCompress s = .next u →
    ∃ t, Finishes u (args.rounds.toNat + 1) t ∧
      ∃ n ≤ s.turns.length + args.rounds.toNat + 1, runFor n u = .next t)

/-- R35, R38, U1: what V and MW hold while idle cannot be observed. Two states that agree elsewhere, and in V and MW while busy,
step alike and stay so. -/
def Obligations.IdleVectorsAreUnobservable : Prop :=
  ∀ s s' t : State, SameButIdleVectors s s' → step s = .next t →
    ∃ t', step s' = .next t' ∧ SameButIdleVectors t t'

/-- R22, R157: while busy, only a reset changes an argument register or a buffer that a write could reach. -/
def Obligations.ArgumentsFrozenWhileBusy : Prop :=
  ∀ s t : State, Memory.wf s.mem → s.phase = .mix → s.turn ≠ .reset → step s = .next t →
    t.rounds = s.rounds ∧ t.h = s.h ∧ t.block = s.block ∧ t.t = s.t ∧ t.fflag = s.fflag ∧ t.inLen = s.inLen ∧
    t.inbuf = s.inbuf

/-- R30, R31, R65: HOUT and OUTBUF change only in a finalisation engine step and at a reset. -/
def Obligations.ResultChangesOnlyAtFinalisation : Prop :=
  ∀ s t : State, Memory.wf s.mem → step s = .next t → t.hout ≠ s.hout ∨ t.outbuf ≠ s.outbuf →
    s.turn = .reset ∨ (s.turn = .engine ∧ s.phase = .mix ∧ s.ridx = s.rounds)

/-- R36: only an accepted COMPRESS or DECODE_COMPRESS sets PHASE to MIX; only the finalisation engine step and reset set it to
IDLE. -/
def Obligations.PhaseChangesOnlyAsStated : Prop :=
  ∀ s t : State, step s = .next t →
    (s.phase = .idle → t.phase = .mix → s.turn = .host ∧
      ∃ rest, s.hostOps = .access (.regWrite 0x000 0x2) :: rest ∨ s.hostOps = .access (.regWrite 0x000 0x3) :: rest) ∧
    (s.phase = .mix → t.phase = .idle → s.turn = .reset ∨ (s.turn = .engine ∧ s.ridx = s.rounds))

/-- R26, R27: IN_LEN and INBUF change only by a write of the host to them while idle, and at a reset. -/
def Obligations.InputFrameIsTheHostsAlone : Prop :=
  ∀ s t : State, Memory.wf s.mem → step s = .next t →
    (t.inLen ≠ s.inLen → s.turn = .reset ∨ (s.turn = .host ∧ s.phase = .idle ∧
      ∃ v rest, s.hostOps = .access (.regWrite 0x010 v) :: rest)) ∧
    (t.inbuf ≠ s.inbuf → s.turn = .reset ∨ (s.turn = .host ∧ s.phase = .idle ∧
      ∃ (a : Addr) (b : Byte) (rest : List HostOp), 0x100 ≤ a.toNat ∧ a.toNat ≤ 0x1D4 ∧
        s.hostOps = .access (.byteWrite a b) :: rest))

/-- R186: OVR is set only by a write dropped while busy (a RegWrite to CMD or an argument register, or a ByteWrite to INBUF or
BLOCK), survives the engine's steps, and is cleared only by an accepted command
word and by reset. -/
def Obligations.OverrunSetAndCleared : Prop :=
  ∀ s t : State, step s = .next t →
    (s.status.ovr = false → t.status.ovr = true → s.turn = .host ∧ s.phase = .mix ∧
      ((∃ (a : Addr) (v : Word) (rest : List HostOp), s.hostOps = .access (.regWrite a v) :: rest ∧
        a.toNat % 8 = 0 ∧ a.toNat ≤ 0x078 ∧ a ≠ 0x008 ∧ a ≠ 0x028) ∨
      (∃ (a : Addr) (b : Byte) (rest : List HostOp), s.hostOps = .access (.byteWrite a b) :: rest ∧
        ((0x100 ≤ a.toNat ∧ a.toNat ≤ 0x1D4) ∨ (0x200 ≤ a.toNat ∧ a.toNat ≤ 0x27F))))) ∧
    (s.turn = .engine → t.status.ovr = s.status.ovr) ∧
    (s.status.ovr = true → t.status.ovr = false → s.turn = .reset ∨ (s.turn = .host ∧ s.phase = .idle ∧
      ∃ c rest, s.hostOps = .access (.regWrite 0x000 c) :: rest))

/-- R129, R130, R131: compress is the loop of ROUND over the round indices below `rounds`, from INIT(h, t, f), on the little-endian
message Words of the block, and then the XOR of FINALIZE. -/
def Obligations.CompressIsTheLoopOfRounds : Prop :=
  (∀ (rounds : Nat) (h : Words8) (block : List Byte) (t : Vector Word 2) (f : Bool),
    ∃ v : Nat → Words16, v 0 = initVector h t f ∧
      (∀ i < rounds, v (i + 1) = mixRound (v i) (messageWords block) i) ∧
      ∀ k : Fin 8, (compress rounds h block t f)[k] = h[k] ^^^ (v rounds)[k.val] ^^^ (v rounds)[k.val + 8]) ∧
  (∀ block : List Byte, block.length = 128 → ∀ k : Fin 16,
    (messageWords block)[k].toNat = ∑ j ∈ Finset.range 8, (block.getD (8 * k.val + j) 0).toNat * 2 ^ (8 * j))
end

