-- ==== Sys2Proof/Laws/Codec.lean ====
section
/-! SUPPORT. Lengths and single Words of the Word Codec. -/

namespace Sys2Proof.Machine
namespace Laws

@[simp] theorem length_wordBytes (w : Word) : (wordBytes w).length = 8 := by simp [wordBytes]

@[simp] theorem length_encodeWords (ws : List Word) : (encodeWords ws).length = 8 * ws.length := by
  induction ws with
  | nil => rfl
  | cons w ws ih => simp only [encodeWords, List.length_append, length_wordBytes, ih, List.length_cons]; omega

@[simp] theorem length_chunkWords (n : Nat) (bs : List Byte) : (chunkWords n bs).length = n := by
  induction n generalizing bs with
  | zero => rfl
  | succ n ih => simp [chunkWords, ih]

@[simp] theorem length_encodeBE32 (r : BitVec 32) : (encodeBE32 r).length = 4 := rfl

theorem length_field (frame : List Byte) (a n : Nat) (h : a + n ≤ frame.length) : (field frame a n).length = n := by
  simp only [field, List.length_take, List.length_drop]; omega

/-- At one of CORE's fixed lengths `decode_words` cannot fail, and gives the Words of `fixedWords` (R104). -/
theorem decodeWords_fixed (n : Nat) (bs : List Byte) (h : bs.length = 8 * n) :
    decodeWords bs = .ok (fixedWords n bs).toList := by
  have key : ∀ (n : Nat) (bs : List Byte),
      chunkWords n bs = List.ofFn fun k : Fin n => leWord ((bs.drop (8 * k.val)).take 8) := by
    intro n
    induction n with
    | zero => intro bs; rfl
    | succ n ih =>
      intro bs
      rw [chunkWords, ih, List.ofFn_succ]
      simp only [Fin.val_zero, Nat.mul_zero, List.drop_zero, List.drop_drop, Fin.val_succ]
      congr 2
      funext k
      congr 3
      omega
  rw [decodeWords, if_neg (by omega), h, Nat.mul_div_cancel_left _ (by decide), key]
  simp only [fixedWords]
  congr 1
  refine List.ext_getElem (by simp) fun i h1 h2 => by simp

/-- The two checks of `decode_input`, and its only success (R110). -/
theorem decodeInput_cases (frame : List Byte) (n : Word) :
    (n ≠ 213#64 ∧ decodeInput frame n = .error .invalidInputLength) ∨
    (n = 213#64 ∧ (flagByte frame ≠ 0x00#8 ∧ flagByte frame ≠ 0x01#8) ∧
      decodeInput frame n = .error .invalidFinalFlag) ∨
    (n = 213#64 ∧ ¬(flagByte frame ≠ 0x00#8 ∧ flagByte frame ≠ 0x01#8) ∧
      decodeInput frame n = .ok (frameArguments frame)) := by
  unfold decodeInput
  split
  · exact .inl ⟨‹_›, rfl⟩
  · split
    · exact .inr (.inl ⟨not_not.mp ‹_›, ‹_›, rfl⟩)
    · exact .inr (.inr ⟨not_not.mp ‹_›, ‹_›, rfl⟩)

/-- A successful decode carries a whole block. -/
theorem length_block_of_decodeInput {frame : List Byte} {n : Word} {args : Arguments} (hf : frame.length = 213)
    (h : decodeInput frame n = .ok args) : args.block.length = 128 := by
  rcases decodeInput_cases frame n with ⟨-, h'⟩ | ⟨-, -, h'⟩ | ⟨-, -, h'⟩ <;> rw [h'] at h
  · cases h
  · cases h
  · injection h with h
    subst h
    exact length_field _ _ _ (by omega)

/-- The decoder reports only its own two errors (R182). -/
theorem decodeInput_error {frame : List Byte} {n : Word} {e : Error} (h : decodeInput frame n = .error e) :
    e = .invalidInputLength ∨ e = .invalidFinalFlag := by
  rcases decodeInput_cases frame n with ⟨-, h'⟩ | ⟨-, -, h'⟩ | ⟨-, -, h'⟩ <;> rw [h'] at h
  · injection h with h; exact .inl h.symm
  · injection h with h; exact .inr h.symm
  · cases h

end Laws
end Sys2Proof.Machine
end

