-- ==== Sys2Proof/Laws/Memory.lean ====
section
/-! SUPPORT. Byte memory: a read after a write, the canonical form kept by every operation, and equal reads make equal memories. -/

namespace Sys2Proof.Machine
namespace Laws

variable (m : Memory) (a n k : Nat) (b : Byte)

@[simp] theorem read_nil : Memory.read [] a = Memory.unlisted := rfl

@[simp] theorem store_nil : Memory.store m a [] = m := by simp only [Memory.store]

@[simp] theorem store_cons (bs : List Byte) :
    Memory.store m a (b :: bs) = Memory.store (Memory.write m a b) (a + 1) bs := by simp only [Memory.store]

theorem read_cons (k : Nat) (x : Byte) :
    Memory.read ((k, x) :: m) a = if k = a then x else Memory.read m a := rfl

theorem wf_nil : Memory.wf [] := by simp [Memory.wf]

theorem wf_tail {c : Host.Cell} {m : Memory} (h : Memory.wf (c :: m)) : Memory.wf m := by
  obtain ⟨hp, hv⟩ := h
  exact ⟨(List.pairwise_cons.mp hp).2, fun x hx => hv x (List.mem_cons_of_mem _ hx)⟩

/-- Below its first address a canonical memory names nothing. -/
theorem read_below {m : Memory} (h : Memory.wf m) (hlt : ∀ x ∈ m, a < x.1) : Memory.read m a = Memory.unlisted := by
  induction m with
  | nil => rfl
  | cons c m ih =>
    have hc := hlt c (List.mem_cons_self ..)
    rw [read_cons, if_neg (by omega)]
    exact ih (wf_tail h) fun x hx => hlt x (List.mem_cons_of_mem _ hx)

theorem lt_of_tail {c : Host.Cell} {m : Memory} (h : Memory.wf (c :: m)) : ∀ x ∈ m, c.1 < x.1 :=
  (List.pairwise_cons.mp h.1).1

/-- The one law of a write: the written address reads as the byte written, every other address as before. -/
theorem read_write {m : Memory} (h : Memory.wf m) :
    Memory.read (Memory.write m a b) k = if k = a then b else Memory.read m k := by
  induction m with
  | nil =>
    simp only [Memory.write]
    split <;> rename_i hb
    · simp [hb]
    · simp [read_cons, eq_comm]
  | cons c m ih =>
    obtain ⟨c, x⟩ := c
    have hlt := lt_of_tail h
    have ih := ih (wf_tail h)
    simp only [Memory.write]
    split <;> rename_i h1
    · rw [read_cons, ih, read_cons]; split_ifs <;> first | rfl | omega
    split <;> rename_i h2
    · subst h2
      split <;> rename_i hb
      · rw [read_cons]
        by_cases hk : k = c
        · subst hk; rw [if_pos rfl, read_below _ (wf_tail h) hlt, hb]
        · rw [if_neg hk, if_neg (Ne.symm hk)]
      · rw [read_cons, read_cons]; split_ifs <;> first | rfl | omega
    · split <;> rename_i hb
      · by_cases hk : k = a
        · subst hk
          rw [if_pos rfl, hb]
          refine read_below _ h fun y hy => ?_
          rcases List.mem_cons.mp hy with rfl | hy
          · simp only; omega
          · have := hlt y hy; simp only at this; omega
        · rw [if_neg hk]
      · rw [read_cons]; split_ifs <;> first | rfl | omega

theorem mem_write {m : Memory} {x : Host.Cell} (hx : x ∈ Memory.write m a b) :
    x ∈ m ∨ (x = (a, b) ∧ b ≠ Memory.unlisted) := by
  induction m with
  | nil =>
    simp only [Memory.write] at hx
    split at hx
    · simp at hx
    · rename_i hb; right; exact ⟨by simpa using hx, hb⟩
  | cons c m ih =>
    obtain ⟨c, y⟩ := c
    simp only [Memory.write] at hx
    split at hx
    · rcases List.mem_cons.mp hx with rfl | hx
      · simp
      · rcases ih hx with h | h
        · exact .inl (List.mem_cons_of_mem _ h)
        · exact .inr h
    · split at hx
      · split at hx <;> rename_i hb
        · exact .inl (List.mem_cons_of_mem _ hx)
        · rcases List.mem_cons.mp hx with rfl | hx
          · exact .inr ⟨rfl, hb⟩
          · exact .inl (List.mem_cons_of_mem _ hx)
      · split at hx <;> rename_i hb
        · exact .inl hx
        · rcases List.mem_cons.mp hx with rfl | hx
          · exact .inr ⟨rfl, hb⟩
          · exact .inl hx

/-- A write inside the buffers keeps the canonical form. -/
theorem wf_write {m : Memory} (h : Memory.wf m) (ha : Memory.InBuffers a) : Memory.wf (Memory.write m a b) := by
  refine ⟨?_, fun x hx => ?_⟩
  · induction m with
    | nil => simp only [Memory.write]; split <;> simp
    | cons c m ih =>
      obtain ⟨c, y⟩ := c
      have hlt := lt_of_tail h
      have hp := (List.pairwise_cons.mp h.1).2
      simp only [Memory.write]
      split <;> rename_i h1
      · refine List.pairwise_cons.mpr ⟨fun x hx => ?_, ih (wf_tail h)⟩
        rcases mem_write _ _ hx with hx | ⟨rfl, -⟩
        · exact hlt x hx
        · exact h1
      split <;> rename_i h2
      · subst h2
        split
        · exact hp
        · exact List.pairwise_cons.mpr ⟨hlt, hp⟩
      · split
        · exact h.1
        · refine List.pairwise_cons.mpr ⟨fun x hx => ?_, h.1⟩
          rcases List.mem_cons.mp hx with rfl | hx
          · simp only; omega
          · have := hlt x hx; simp only at this ⊢; omega
  · rcases mem_write _ _ hx with hx | ⟨rfl, hb⟩
    · exact h.2 x hx
    · exact ⟨hb, ha⟩

/-- A byte string stored inside the buffers keeps the canonical form. -/
theorem wf_store {m : Memory} (bs : List Byte) (h : Memory.wf m) (ha : ∀ k < bs.length, Memory.InBuffers (a + k)) :
    Memory.wf (Memory.store m a bs) := by
  induction bs generalizing m a with
  | nil => simpa using h
  | cons b bs ih =>
    rw [store_cons]
    refine ih _ (wf_write a b h (by simpa using ha 0 (by simp))) fun k hk => ?_
    have := ha (k + 1) (by simpa using hk)
    rwa [show a + (k + 1) = a + 1 + k by omega] at this

/-- The one law of a store: the stored addresses read as the bytes stored, every other address as before. -/
theorem read_store {m : Memory} (bs : List Byte) (h : Memory.wf m) (ha : ∀ k < bs.length, Memory.InBuffers (a + k)) :
    Memory.read (Memory.store m a bs) k =
      if a ≤ k ∧ k < a + bs.length then bs.getD (k - a) 0 else Memory.read m k := by
  induction bs generalizing m a with
  | nil => simp only [store_nil, List.length_nil]; rw [if_neg (by omega)]
  | cons b bs ih =>
    have hw : Memory.wf (Memory.write m a b) := wf_write _ b h (ha 0 (by simp))
    have ha' : ∀ k < bs.length, Memory.InBuffers (a + 1 + k) := fun k hk => by
      have := ha (k + 1) (by simpa using hk)
      rwa [show a + (k + 1) = a + 1 + k by omega] at this
    simp only [store_cons, List.length_cons]
    rw [ih _ hw ha', read_write _ _ _ h]
    by_cases h1 : a + 1 ≤ k ∧ k < a + 1 + bs.length
    · rw [if_pos h1, if_pos (by omega), show k - a = k - (a + 1) + 1 by omega, List.getD_cons_succ]
    · rw [if_neg h1]
      by_cases h2 : k = a
      · subst h2; rw [if_pos rfl, if_pos (by omega)]; simp
      · rw [if_neg h2, if_neg (by omega)]

@[simp] theorem length_load : (Memory.load m a n).length = n := by simp [Memory.load]

theorem getElem_load (hk : k < (Memory.load m a n).length) : (Memory.load m a n)[k] = Memory.read m (a + k) := by
  simp [Memory.load]

theorem getD_load (hk : k < n) (d : Byte) : (Memory.load m a n).getD k d = Memory.read m (a + k) := by
  rw [List.getD_eq_getElem _ _ (by simpa using hk), getElem_load]

/-- What was stored is loaded. -/
theorem load_store {m : Memory} (bs : List Byte) (h : Memory.wf m) (ha : ∀ k < bs.length, Memory.InBuffers (a + k)) :
    Memory.load (Memory.store m a bs) a bs.length = bs := by
  refine List.ext_getElem (by simp) fun k h1 h2 => ?_
  rw [getElem_load, read_store _ _ _ h ha, if_pos (by omega), List.getD_eq_getElem _ _ (by omega)]
  simp

/-- A store leaves the bytes of another range alone. -/
theorem load_store_other {m : Memory} (bs : List Byte) (h : Memory.wf m)
    (ha : ∀ k < bs.length, Memory.InBuffers (a + k)) (p n : Nat) (hd : p + n ≤ a ∨ a + bs.length ≤ p) :
    Memory.load (Memory.store m a bs) p n = Memory.load m p n := by
  refine List.ext_getElem (by simp) fun k h1 h2 => ?_
  simp only [length_load] at h1
  rw [getElem_load, getElem_load, read_store _ _ _ h ha, if_neg (by omega)]

/-- A write leaves the bytes of another range alone. -/
theorem load_write_other {m : Memory} (h : Memory.wf m) (p n : Nat) (hd : a < p ∨ p + n ≤ a) :
    Memory.load (Memory.write m a b) p n = Memory.load m p n := by
  refine List.ext_getElem (by simp) fun k h1 h2 => ?_
  simp only [length_load] at h1
  rw [getElem_load, getElem_load, read_write _ _ _ h, if_neg (by omega)]

/-- The canonical form is canonical: memories that read alike are the same list. -/
theorem eq_of_read_eq {m m' : Memory} (h : Memory.wf m) (h' : Memory.wf m')
    (hr : ∀ a, Memory.read m a = Memory.read m' a) : m = m' := by
  induction m generalizing m' with
  | nil =>
    cases m' with
    | nil => rfl
    | cons c m' =>
      have := hr c.1
      rw [read_nil, read_cons, if_pos rfl] at this
      exact absurd this.symm (h'.2 c (List.mem_cons_self ..)).1
  | cons c m ih =>
    have hc := (h.2 c (List.mem_cons_self ..)).1
    cases m' with
    | nil =>
      have := hr c.1
      rw [read_nil, read_cons, if_pos rfl] at this
      exact absurd this hc
    | cons c' m' =>
      have hc' := (h'.2 c' (List.mem_cons_self ..)).1
      have hlt := lt_of_tail h
      have hlt' := lt_of_tail h'
      have e1 := hr c.1
      have e2 := hr c'.1
      rw [read_cons, read_cons, if_pos rfl] at e1
      rw [read_cons, read_cons, if_pos rfl] at e2
      rcases lt_trichotomy c.1 c'.1 with hk | hk | hk
      · rw [if_neg (by omega), read_below _ (wf_tail h') fun x hx => by have := hlt' x hx; omega] at e1
        exact absurd e1 hc
      · rw [if_pos hk.symm] at e1
        have hcc : c = c' := Prod.ext hk e1
        subst hcc
        congr 1
        refine ih (wf_tail h) (wf_tail h') fun a => ?_
        have := hr a
        rw [read_cons, read_cons] at this
        by_cases ha : c.1 = a
        · subst ha
          rw [read_below _ (wf_tail h) hlt, read_below _ (wf_tail h') hlt']
        · simpa [ha] using this
      · rw [if_neg (by omega), read_below _ (wf_tail h) fun x hx => by have := hlt x hx; omega] at e2
        exact absurd e2.symm hc'

end Laws
end Sys2Proof.Machine
end

