-- ==== Sys2Proof/Laws/State.lean ====
section
/-! SUPPORT. The fields of a state after each named update: one lemma per field and update, true by definition, so that no proof unfolds a record update. -/

namespace Sys2Proof.Machine
namespace Laws

variable (s : State)

/-! ### setInLen -/

@[simp] theorem setInLen_rounds (w : Word) : (s.setInLen w).rounds = s.rounds := by delta State.setInLen; rfl
@[simp] theorem setInLen_h (w : Word) : (s.setInLen w).h = s.h := by delta State.setInLen; rfl
@[simp] theorem setInLen_t (w : Word) : (s.setInLen w).t = s.t := by delta State.setInLen; rfl
@[simp] theorem setInLen_fflag (w : Word) : (s.setInLen w).fflag = s.fflag := by delta State.setInLen; rfl
@[simp] theorem setInLen_inLen (w : Word) : (s.setInLen w).inLen = w := by delta State.setInLen; rfl
@[simp] theorem setInLen_mem (w : Word) : (s.setInLen w).mem = s.mem := by delta State.setInLen; rfl
@[simp] theorem setInLen_status (w : Word) : (s.setInLen w).status = s.status := by delta State.setInLen; rfl
@[simp] theorem setInLen_hout (w : Word) : (s.setInLen w).hout = s.hout := by delta State.setInLen; rfl
@[simp] theorem setInLen_v (w : Word) : (s.setInLen w).v = s.v := by delta State.setInLen; rfl
@[simp] theorem setInLen_mw (w : Word) : (s.setInLen w).mw = s.mw := by delta State.setInLen; rfl
@[simp] theorem setInLen_phase (w : Word) : (s.setInLen w).phase = s.phase := by delta State.setInLen; rfl
@[simp] theorem setInLen_ridx (w : Word) : (s.setInLen w).ridx = s.ridx := by delta State.setInLen; rfl
@[simp] theorem setInLen_response (w : Word) : (s.setInLen w).response = s.response := by delta State.setInLen; rfl
@[simp] theorem setInLen_hostOps (w : Word) : (s.setInLen w).hostOps = s.hostOps := by delta State.setInLen; rfl
@[simp] theorem setInLen_turns (w : Word) : (s.setInLen w).turns = s.turns := by delta State.setInLen; rfl
@[simp] theorem setInLen_freeIndex (w : Word) : (s.setInLen w).freeIndex = s.freeIndex := by delta State.setInLen; rfl

/-! ### setRounds -/

@[simp] theorem setRounds_rounds (w : Word) : (s.setRounds w).rounds = w.extractLsb' 0 32 := by delta State.setRounds; rfl
@[simp] theorem setRounds_h (w : Word) : (s.setRounds w).h = s.h := by delta State.setRounds; rfl
@[simp] theorem setRounds_t (w : Word) : (s.setRounds w).t = s.t := by delta State.setRounds; rfl
@[simp] theorem setRounds_fflag (w : Word) : (s.setRounds w).fflag = s.fflag := by delta State.setRounds; rfl
@[simp] theorem setRounds_inLen (w : Word) : (s.setRounds w).inLen = s.inLen := by delta State.setRounds; rfl
@[simp] theorem setRounds_mem (w : Word) : (s.setRounds w).mem = s.mem := by delta State.setRounds; rfl
@[simp] theorem setRounds_status (w : Word) : (s.setRounds w).status = s.status := by delta State.setRounds; rfl
@[simp] theorem setRounds_hout (w : Word) : (s.setRounds w).hout = s.hout := by delta State.setRounds; rfl
@[simp] theorem setRounds_v (w : Word) : (s.setRounds w).v = s.v := by delta State.setRounds; rfl
@[simp] theorem setRounds_mw (w : Word) : (s.setRounds w).mw = s.mw := by delta State.setRounds; rfl
@[simp] theorem setRounds_phase (w : Word) : (s.setRounds w).phase = s.phase := by delta State.setRounds; rfl
@[simp] theorem setRounds_ridx (w : Word) : (s.setRounds w).ridx = s.ridx := by delta State.setRounds; rfl
@[simp] theorem setRounds_response (w : Word) : (s.setRounds w).response = s.response := by delta State.setRounds; rfl
@[simp] theorem setRounds_hostOps (w : Word) : (s.setRounds w).hostOps = s.hostOps := by delta State.setRounds; rfl
@[simp] theorem setRounds_turns (w : Word) : (s.setRounds w).turns = s.turns := by delta State.setRounds; rfl
@[simp] theorem setRounds_freeIndex (w : Word) : (s.setRounds w).freeIndex = s.freeIndex := by delta State.setRounds; rfl

/-! ### setFflag -/

@[simp] theorem setFflag_rounds (w : Word) : (s.setFflag w).rounds = s.rounds := by delta State.setFflag; rfl
@[simp] theorem setFflag_h (w : Word) : (s.setFflag w).h = s.h := by delta State.setFflag; rfl
@[simp] theorem setFflag_t (w : Word) : (s.setFflag w).t = s.t := by delta State.setFflag; rfl
@[simp] theorem setFflag_fflag (w : Word) : (s.setFflag w).fflag = w.getLsbD 0 := by delta State.setFflag; rfl
@[simp] theorem setFflag_inLen (w : Word) : (s.setFflag w).inLen = s.inLen := by delta State.setFflag; rfl
@[simp] theorem setFflag_mem (w : Word) : (s.setFflag w).mem = s.mem := by delta State.setFflag; rfl
@[simp] theorem setFflag_status (w : Word) : (s.setFflag w).status = s.status := by delta State.setFflag; rfl
@[simp] theorem setFflag_hout (w : Word) : (s.setFflag w).hout = s.hout := by delta State.setFflag; rfl
@[simp] theorem setFflag_v (w : Word) : (s.setFflag w).v = s.v := by delta State.setFflag; rfl
@[simp] theorem setFflag_mw (w : Word) : (s.setFflag w).mw = s.mw := by delta State.setFflag; rfl
@[simp] theorem setFflag_phase (w : Word) : (s.setFflag w).phase = s.phase := by delta State.setFflag; rfl
@[simp] theorem setFflag_ridx (w : Word) : (s.setFflag w).ridx = s.ridx := by delta State.setFflag; rfl
@[simp] theorem setFflag_response (w : Word) : (s.setFflag w).response = s.response := by delta State.setFflag; rfl
@[simp] theorem setFflag_hostOps (w : Word) : (s.setFflag w).hostOps = s.hostOps := by delta State.setFflag; rfl
@[simp] theorem setFflag_turns (w : Word) : (s.setFflag w).turns = s.turns := by delta State.setFflag; rfl
@[simp] theorem setFflag_freeIndex (w : Word) : (s.setFflag w).freeIndex = s.freeIndex := by delta State.setFflag; rfl

/-! ### setT -/

@[simp] theorem setT_rounds (k : Fin 2) (w : Word) : (s.setT k w).rounds = s.rounds := by delta State.setT; rfl
@[simp] theorem setT_h (k : Fin 2) (w : Word) : (s.setT k w).h = s.h := by delta State.setT; rfl
@[simp] theorem setT_t (k : Fin 2) (w : Word) : (s.setT k w).t = s.t.set k w := by delta State.setT; rfl
@[simp] theorem setT_fflag (k : Fin 2) (w : Word) : (s.setT k w).fflag = s.fflag := by delta State.setT; rfl
@[simp] theorem setT_inLen (k : Fin 2) (w : Word) : (s.setT k w).inLen = s.inLen := by delta State.setT; rfl
@[simp] theorem setT_mem (k : Fin 2) (w : Word) : (s.setT k w).mem = s.mem := by delta State.setT; rfl
@[simp] theorem setT_status (k : Fin 2) (w : Word) : (s.setT k w).status = s.status := by delta State.setT; rfl
@[simp] theorem setT_hout (k : Fin 2) (w : Word) : (s.setT k w).hout = s.hout := by delta State.setT; rfl
@[simp] theorem setT_v (k : Fin 2) (w : Word) : (s.setT k w).v = s.v := by delta State.setT; rfl
@[simp] theorem setT_mw (k : Fin 2) (w : Word) : (s.setT k w).mw = s.mw := by delta State.setT; rfl
@[simp] theorem setT_phase (k : Fin 2) (w : Word) : (s.setT k w).phase = s.phase := by delta State.setT; rfl
@[simp] theorem setT_ridx (k : Fin 2) (w : Word) : (s.setT k w).ridx = s.ridx := by delta State.setT; rfl
@[simp] theorem setT_response (k : Fin 2) (w : Word) : (s.setT k w).response = s.response := by delta State.setT; rfl
@[simp] theorem setT_hostOps (k : Fin 2) (w : Word) : (s.setT k w).hostOps = s.hostOps := by delta State.setT; rfl
@[simp] theorem setT_turns (k : Fin 2) (w : Word) : (s.setT k w).turns = s.turns := by delta State.setT; rfl
@[simp] theorem setT_freeIndex (k : Fin 2) (w : Word) : (s.setT k w).freeIndex = s.freeIndex := by delta State.setT; rfl

/-! ### setH -/

@[simp] theorem setH_rounds (k : Fin 8) (w : Word) : (s.setH k w).rounds = s.rounds := by delta State.setH; rfl
@[simp] theorem setH_h (k : Fin 8) (w : Word) : (s.setH k w).h = s.h.set k w := by delta State.setH; rfl
@[simp] theorem setH_t (k : Fin 8) (w : Word) : (s.setH k w).t = s.t := by delta State.setH; rfl
@[simp] theorem setH_fflag (k : Fin 8) (w : Word) : (s.setH k w).fflag = s.fflag := by delta State.setH; rfl
@[simp] theorem setH_inLen (k : Fin 8) (w : Word) : (s.setH k w).inLen = s.inLen := by delta State.setH; rfl
@[simp] theorem setH_mem (k : Fin 8) (w : Word) : (s.setH k w).mem = s.mem := by delta State.setH; rfl
@[simp] theorem setH_status (k : Fin 8) (w : Word) : (s.setH k w).status = s.status := by delta State.setH; rfl
@[simp] theorem setH_hout (k : Fin 8) (w : Word) : (s.setH k w).hout = s.hout := by delta State.setH; rfl
@[simp] theorem setH_v (k : Fin 8) (w : Word) : (s.setH k w).v = s.v := by delta State.setH; rfl
@[simp] theorem setH_mw (k : Fin 8) (w : Word) : (s.setH k w).mw = s.mw := by delta State.setH; rfl
@[simp] theorem setH_phase (k : Fin 8) (w : Word) : (s.setH k w).phase = s.phase := by delta State.setH; rfl
@[simp] theorem setH_ridx (k : Fin 8) (w : Word) : (s.setH k w).ridx = s.ridx := by delta State.setH; rfl
@[simp] theorem setH_response (k : Fin 8) (w : Word) : (s.setH k w).response = s.response := by delta State.setH; rfl
@[simp] theorem setH_hostOps (k : Fin 8) (w : Word) : (s.setH k w).hostOps = s.hostOps := by delta State.setH; rfl
@[simp] theorem setH_turns (k : Fin 8) (w : Word) : (s.setH k w).turns = s.turns := by delta State.setH; rfl
@[simp] theorem setH_freeIndex (k : Fin 8) (w : Word) : (s.setH k w).freeIndex = s.freeIndex := by delta State.setH; rfl

/-! ### setByte -/

@[simp] theorem setByte_rounds (a : Nat) (b : Byte) : (s.setByte a b).rounds = s.rounds := by delta State.setByte; rfl
@[simp] theorem setByte_h (a : Nat) (b : Byte) : (s.setByte a b).h = s.h := by delta State.setByte; rfl
@[simp] theorem setByte_t (a : Nat) (b : Byte) : (s.setByte a b).t = s.t := by delta State.setByte; rfl
@[simp] theorem setByte_fflag (a : Nat) (b : Byte) : (s.setByte a b).fflag = s.fflag := by delta State.setByte; rfl
@[simp] theorem setByte_inLen (a : Nat) (b : Byte) : (s.setByte a b).inLen = s.inLen := by delta State.setByte; rfl
@[simp] theorem setByte_mem (a : Nat) (b : Byte) : (s.setByte a b).mem = Memory.write s.mem a b := by delta State.setByte; rfl
@[simp] theorem setByte_status (a : Nat) (b : Byte) : (s.setByte a b).status = s.status := by delta State.setByte; rfl
@[simp] theorem setByte_hout (a : Nat) (b : Byte) : (s.setByte a b).hout = s.hout := by delta State.setByte; rfl
@[simp] theorem setByte_v (a : Nat) (b : Byte) : (s.setByte a b).v = s.v := by delta State.setByte; rfl
@[simp] theorem setByte_mw (a : Nat) (b : Byte) : (s.setByte a b).mw = s.mw := by delta State.setByte; rfl
@[simp] theorem setByte_phase (a : Nat) (b : Byte) : (s.setByte a b).phase = s.phase := by delta State.setByte; rfl
@[simp] theorem setByte_ridx (a : Nat) (b : Byte) : (s.setByte a b).ridx = s.ridx := by delta State.setByte; rfl
@[simp] theorem setByte_response (a : Nat) (b : Byte) : (s.setByte a b).response = s.response := by delta State.setByte; rfl
@[simp] theorem setByte_hostOps (a : Nat) (b : Byte) : (s.setByte a b).hostOps = s.hostOps := by delta State.setByte; rfl
@[simp] theorem setByte_turns (a : Nat) (b : Byte) : (s.setByte a b).turns = s.turns := by delta State.setByte; rfl
@[simp] theorem setByte_freeIndex (a : Nat) (b : Byte) : (s.setByte a b).freeIndex = s.freeIndex := by delta State.setByte; rfl

/-! ### setStatus -/

@[simp] theorem setStatus_rounds (st : Status) : (s.setStatus st).rounds = s.rounds := by delta State.setStatus; rfl
@[simp] theorem setStatus_h (st : Status) : (s.setStatus st).h = s.h := by delta State.setStatus; rfl
@[simp] theorem setStatus_t (st : Status) : (s.setStatus st).t = s.t := by delta State.setStatus; rfl
@[simp] theorem setStatus_fflag (st : Status) : (s.setStatus st).fflag = s.fflag := by delta State.setStatus; rfl
@[simp] theorem setStatus_inLen (st : Status) : (s.setStatus st).inLen = s.inLen := by delta State.setStatus; rfl
@[simp] theorem setStatus_mem (st : Status) : (s.setStatus st).mem = s.mem := by delta State.setStatus; rfl
@[simp] theorem setStatus_status (st : Status) : (s.setStatus st).status = st := by delta State.setStatus; rfl
@[simp] theorem setStatus_hout (st : Status) : (s.setStatus st).hout = s.hout := by delta State.setStatus; rfl
@[simp] theorem setStatus_v (st : Status) : (s.setStatus st).v = s.v := by delta State.setStatus; rfl
@[simp] theorem setStatus_mw (st : Status) : (s.setStatus st).mw = s.mw := by delta State.setStatus; rfl
@[simp] theorem setStatus_phase (st : Status) : (s.setStatus st).phase = s.phase := by delta State.setStatus; rfl
@[simp] theorem setStatus_ridx (st : Status) : (s.setStatus st).ridx = s.ridx := by delta State.setStatus; rfl
@[simp] theorem setStatus_response (st : Status) : (s.setStatus st).response = s.response := by delta State.setStatus; rfl
@[simp] theorem setStatus_hostOps (st : Status) : (s.setStatus st).hostOps = s.hostOps := by delta State.setStatus; rfl
@[simp] theorem setStatus_turns (st : Status) : (s.setStatus st).turns = s.turns := by delta State.setStatus; rfl
@[simp] theorem setStatus_freeIndex (st : Status) : (s.setStatus st).freeIndex = s.freeIndex := by delta State.setStatus; rfl

/-! ### answered -/

@[simp] theorem answered_rounds (r : Response) : (s.answered r).rounds = s.rounds := by delta State.answered; rfl
@[simp] theorem answered_h (r : Response) : (s.answered r).h = s.h := by delta State.answered; rfl
@[simp] theorem answered_t (r : Response) : (s.answered r).t = s.t := by delta State.answered; rfl
@[simp] theorem answered_fflag (r : Response) : (s.answered r).fflag = s.fflag := by delta State.answered; rfl
@[simp] theorem answered_inLen (r : Response) : (s.answered r).inLen = s.inLen := by delta State.answered; rfl
@[simp] theorem answered_mem (r : Response) : (s.answered r).mem = s.mem := by delta State.answered; rfl
@[simp] theorem answered_status (r : Response) : (s.answered r).status = s.status := by delta State.answered; rfl
@[simp] theorem answered_hout (r : Response) : (s.answered r).hout = s.hout := by delta State.answered; rfl
@[simp] theorem answered_v (r : Response) : (s.answered r).v = s.v := by delta State.answered; rfl
@[simp] theorem answered_mw (r : Response) : (s.answered r).mw = s.mw := by delta State.answered; rfl
@[simp] theorem answered_phase (r : Response) : (s.answered r).phase = s.phase := by delta State.answered; rfl
@[simp] theorem answered_ridx (r : Response) : (s.answered r).ridx = s.ridx := by delta State.answered; rfl
@[simp] theorem answered_response (r : Response) : (s.answered r).response = some r := by delta State.answered; rfl
@[simp] theorem answered_hostOps (r : Response) : (s.answered r).hostOps = s.hostOps := by delta State.answered; rfl
@[simp] theorem answered_turns (r : Response) : (s.answered r).turns = s.turns := by delta State.answered; rfl
@[simp] theorem answered_freeIndex (r : Response) : (s.answered r).freeIndex = s.freeIndex := by delta State.answered; rfl

/-! ### planned -/

@[simp] theorem planned_rounds (ops : List HostOp) : (s.planned ops).rounds = s.rounds := by delta State.planned; rfl
@[simp] theorem planned_h (ops : List HostOp) : (s.planned ops).h = s.h := by delta State.planned; rfl
@[simp] theorem planned_t (ops : List HostOp) : (s.planned ops).t = s.t := by delta State.planned; rfl
@[simp] theorem planned_fflag (ops : List HostOp) : (s.planned ops).fflag = s.fflag := by delta State.planned; rfl
@[simp] theorem planned_inLen (ops : List HostOp) : (s.planned ops).inLen = s.inLen := by delta State.planned; rfl
@[simp] theorem planned_mem (ops : List HostOp) : (s.planned ops).mem = s.mem := by delta State.planned; rfl
@[simp] theorem planned_status (ops : List HostOp) : (s.planned ops).status = s.status := by delta State.planned; rfl
@[simp] theorem planned_hout (ops : List HostOp) : (s.planned ops).hout = s.hout := by delta State.planned; rfl
@[simp] theorem planned_v (ops : List HostOp) : (s.planned ops).v = s.v := by delta State.planned; rfl
@[simp] theorem planned_mw (ops : List HostOp) : (s.planned ops).mw = s.mw := by delta State.planned; rfl
@[simp] theorem planned_phase (ops : List HostOp) : (s.planned ops).phase = s.phase := by delta State.planned; rfl
@[simp] theorem planned_ridx (ops : List HostOp) : (s.planned ops).ridx = s.ridx := by delta State.planned; rfl
@[simp] theorem planned_response (ops : List HostOp) : (s.planned ops).response = s.response := by delta State.planned; rfl
@[simp] theorem planned_hostOps (ops : List HostOp) : (s.planned ops).hostOps = ops := by delta State.planned; rfl
@[simp] theorem planned_turns (ops : List HostOp) : (s.planned ops).turns = s.turns := by delta State.planned; rfl
@[simp] theorem planned_freeIndex (ops : List HostOp) : (s.planned ops).freeIndex = s.freeIndex := by delta State.planned; rfl

/-! ### afterTurn -/

@[simp] theorem afterTurn_rounds : (s.afterTurn).rounds = s.rounds := by delta State.afterTurn; rfl
@[simp] theorem afterTurn_h : (s.afterTurn).h = s.h := by delta State.afterTurn; rfl
@[simp] theorem afterTurn_t : (s.afterTurn).t = s.t := by delta State.afterTurn; rfl
@[simp] theorem afterTurn_fflag : (s.afterTurn).fflag = s.fflag := by delta State.afterTurn; rfl
@[simp] theorem afterTurn_inLen : (s.afterTurn).inLen = s.inLen := by delta State.afterTurn; rfl
@[simp] theorem afterTurn_mem : (s.afterTurn).mem = s.mem := by delta State.afterTurn; rfl
@[simp] theorem afterTurn_status : (s.afterTurn).status = s.status := by delta State.afterTurn; rfl
@[simp] theorem afterTurn_hout : (s.afterTurn).hout = s.hout := by delta State.afterTurn; rfl
@[simp] theorem afterTurn_v : (s.afterTurn).v = s.v := by delta State.afterTurn; rfl
@[simp] theorem afterTurn_mw : (s.afterTurn).mw = s.mw := by delta State.afterTurn; rfl
@[simp] theorem afterTurn_phase : (s.afterTurn).phase = s.phase := by delta State.afterTurn; rfl
@[simp] theorem afterTurn_ridx : (s.afterTurn).ridx = s.ridx := by delta State.afterTurn; rfl
@[simp] theorem afterTurn_response : (s.afterTurn).response = s.response := by delta State.afterTurn; rfl
@[simp] theorem afterTurn_hostOps : (s.afterTurn).hostOps = s.hostOps := by delta State.afterTurn; rfl
@[simp] theorem afterTurn_turns : (s.afterTurn).turns = s.turns.tail := by delta State.afterTurn; rfl
@[simp] theorem afterTurn_freeIndex : (s.afterTurn).freeIndex = s.freeIndex := by delta State.afterTurn; rfl

/-! ### dropWrite -/

@[simp] theorem dropWrite_rounds : (dropWrite s).rounds = s.rounds := by delta dropWrite State.setStatus; rfl
@[simp] theorem dropWrite_h : (dropWrite s).h = s.h := by delta dropWrite State.setStatus; rfl
@[simp] theorem dropWrite_t : (dropWrite s).t = s.t := by delta dropWrite State.setStatus; rfl
@[simp] theorem dropWrite_fflag : (dropWrite s).fflag = s.fflag := by delta dropWrite State.setStatus; rfl
@[simp] theorem dropWrite_inLen : (dropWrite s).inLen = s.inLen := by delta dropWrite State.setStatus; rfl
@[simp] theorem dropWrite_mem : (dropWrite s).mem = s.mem := by delta dropWrite State.setStatus; rfl
@[simp] theorem dropWrite_status : (dropWrite s).status = s.status.overrun := by delta dropWrite State.setStatus; rfl
@[simp] theorem dropWrite_hout : (dropWrite s).hout = s.hout := by delta dropWrite State.setStatus; rfl
@[simp] theorem dropWrite_v : (dropWrite s).v = s.v := by delta dropWrite State.setStatus; rfl
@[simp] theorem dropWrite_mw : (dropWrite s).mw = s.mw := by delta dropWrite State.setStatus; rfl
@[simp] theorem dropWrite_phase : (dropWrite s).phase = s.phase := by delta dropWrite State.setStatus; rfl
@[simp] theorem dropWrite_ridx : (dropWrite s).ridx = s.ridx := by delta dropWrite State.setStatus; rfl
@[simp] theorem dropWrite_response : (dropWrite s).response = s.response := by delta dropWrite State.setStatus; rfl
@[simp] theorem dropWrite_hostOps : (dropWrite s).hostOps = s.hostOps := by delta dropWrite State.setStatus; rfl
@[simp] theorem dropWrite_turns : (dropWrite s).turns = s.turns := by delta dropWrite State.setStatus; rfl
@[simp] theorem dropWrite_freeIndex : (dropWrite s).freeIndex = s.freeIndex := by delta dropWrite State.setStatus; rfl

/-! ### raiseError -/

@[simp] theorem raiseError_rounds (e : Error) : (raiseError e s).rounds = s.rounds := by delta raiseError State.setStatus; rfl
@[simp] theorem raiseError_h (e : Error) : (raiseError e s).h = s.h := by delta raiseError State.setStatus; rfl
@[simp] theorem raiseError_t (e : Error) : (raiseError e s).t = s.t := by delta raiseError State.setStatus; rfl
@[simp] theorem raiseError_fflag (e : Error) : (raiseError e s).fflag = s.fflag := by delta raiseError State.setStatus; rfl
@[simp] theorem raiseError_inLen (e : Error) : (raiseError e s).inLen = s.inLen := by delta raiseError State.setStatus; rfl
@[simp] theorem raiseError_mem (e : Error) : (raiseError e s).mem = s.mem := by delta raiseError State.setStatus; rfl
@[simp] theorem raiseError_status (e : Error) : (raiseError e s).status = Status.failed e := by delta raiseError State.setStatus; rfl
@[simp] theorem raiseError_hout (e : Error) : (raiseError e s).hout = s.hout := by delta raiseError State.setStatus; rfl
@[simp] theorem raiseError_v (e : Error) : (raiseError e s).v = s.v := by delta raiseError State.setStatus; rfl
@[simp] theorem raiseError_mw (e : Error) : (raiseError e s).mw = s.mw := by delta raiseError State.setStatus; rfl
@[simp] theorem raiseError_phase (e : Error) : (raiseError e s).phase = s.phase := by delta raiseError State.setStatus; rfl
@[simp] theorem raiseError_ridx (e : Error) : (raiseError e s).ridx = s.ridx := by delta raiseError State.setStatus; rfl
@[simp] theorem raiseError_response (e : Error) : (raiseError e s).response = s.response := by delta raiseError State.setStatus; rfl
@[simp] theorem raiseError_hostOps (e : Error) : (raiseError e s).hostOps = s.hostOps := by delta raiseError State.setStatus; rfl
@[simp] theorem raiseError_turns (e : Error) : (raiseError e s).turns = s.turns := by delta raiseError State.setStatus; rfl
@[simp] theorem raiseError_freeIndex (e : Error) : (raiseError e s).freeIndex = s.freeIndex := by delta raiseError State.setStatus; rfl

/-! ### finishDecode -/

@[simp] theorem finishDecode_rounds : (finishDecode s).rounds = s.rounds := by delta finishDecode State.setStatus; rfl
@[simp] theorem finishDecode_h : (finishDecode s).h = s.h := by delta finishDecode State.setStatus; rfl
@[simp] theorem finishDecode_t : (finishDecode s).t = s.t := by delta finishDecode State.setStatus; rfl
@[simp] theorem finishDecode_fflag : (finishDecode s).fflag = s.fflag := by delta finishDecode State.setStatus; rfl
@[simp] theorem finishDecode_inLen : (finishDecode s).inLen = s.inLen := by delta finishDecode State.setStatus; rfl
@[simp] theorem finishDecode_mem : (finishDecode s).mem = s.mem := by delta finishDecode State.setStatus; rfl
@[simp] theorem finishDecode_status : (finishDecode s).status = Status.finished := by delta finishDecode State.setStatus; rfl
@[simp] theorem finishDecode_hout : (finishDecode s).hout = s.hout := by delta finishDecode State.setStatus; rfl
@[simp] theorem finishDecode_v : (finishDecode s).v = s.v := by delta finishDecode State.setStatus; rfl
@[simp] theorem finishDecode_mw : (finishDecode s).mw = s.mw := by delta finishDecode State.setStatus; rfl
@[simp] theorem finishDecode_phase : (finishDecode s).phase = s.phase := by delta finishDecode State.setStatus; rfl
@[simp] theorem finishDecode_ridx : (finishDecode s).ridx = s.ridx := by delta finishDecode State.setStatus; rfl
@[simp] theorem finishDecode_response : (finishDecode s).response = s.response := by delta finishDecode State.setStatus; rfl
@[simp] theorem finishDecode_hostOps : (finishDecode s).hostOps = s.hostOps := by delta finishDecode State.setStatus; rfl
@[simp] theorem finishDecode_turns : (finishDecode s).turns = s.turns := by delta finishDecode State.setStatus; rfl
@[simp] theorem finishDecode_freeIndex : (finishDecode s).freeIndex = s.freeIndex := by delta finishDecode State.setStatus; rfl

/-! ### writeArguments -/

@[simp] theorem writeArguments_rounds (args : Arguments) : (writeArguments args s).rounds = args.rounds := by delta writeArguments; rfl
@[simp] theorem writeArguments_h (args : Arguments) : (writeArguments args s).h = args.h := by delta writeArguments; rfl
@[simp] theorem writeArguments_t (args : Arguments) : (writeArguments args s).t = args.t := by delta writeArguments; rfl
@[simp] theorem writeArguments_fflag (args : Arguments) : (writeArguments args s).fflag = args.f := by delta writeArguments; rfl
@[simp] theorem writeArguments_inLen (args : Arguments) : (writeArguments args s).inLen = s.inLen := by delta writeArguments; rfl
@[simp] theorem writeArguments_mem (args : Arguments) : (writeArguments args s).mem = Memory.store s.mem 0x200 args.block := by delta writeArguments; rfl
@[simp] theorem writeArguments_status (args : Arguments) : (writeArguments args s).status = s.status := by delta writeArguments; rfl
@[simp] theorem writeArguments_hout (args : Arguments) : (writeArguments args s).hout = s.hout := by delta writeArguments; rfl
@[simp] theorem writeArguments_v (args : Arguments) : (writeArguments args s).v = s.v := by delta writeArguments; rfl
@[simp] theorem writeArguments_mw (args : Arguments) : (writeArguments args s).mw = s.mw := by delta writeArguments; rfl
@[simp] theorem writeArguments_phase (args : Arguments) : (writeArguments args s).phase = s.phase := by delta writeArguments; rfl
@[simp] theorem writeArguments_ridx (args : Arguments) : (writeArguments args s).ridx = s.ridx := by delta writeArguments; rfl
@[simp] theorem writeArguments_response (args : Arguments) : (writeArguments args s).response = s.response := by delta writeArguments; rfl
@[simp] theorem writeArguments_hostOps (args : Arguments) : (writeArguments args s).hostOps = s.hostOps := by delta writeArguments; rfl
@[simp] theorem writeArguments_turns (args : Arguments) : (writeArguments args s).turns = s.turns := by delta writeArguments; rfl
@[simp] theorem writeArguments_freeIndex (args : Arguments) : (writeArguments args s).freeIndex = s.freeIndex := by delta writeArguments; rfl

/-! ### startCompression -/

@[simp] theorem startCompression_rounds : (startCompression s).rounds = s.rounds := by delta startCompression; rfl
@[simp] theorem startCompression_h : (startCompression s).h = s.h := by delta startCompression; rfl
@[simp] theorem startCompression_t : (startCompression s).t = s.t := by delta startCompression; rfl
@[simp] theorem startCompression_fflag : (startCompression s).fflag = s.fflag := by delta startCompression; rfl
@[simp] theorem startCompression_inLen : (startCompression s).inLen = s.inLen := by delta startCompression; rfl
@[simp] theorem startCompression_mem : (startCompression s).mem = s.mem := by delta startCompression; rfl
@[simp] theorem startCompression_status : (startCompression s).status = Status.running := by delta startCompression; rfl
@[simp] theorem startCompression_hout : (startCompression s).hout = s.hout := by delta startCompression; rfl
@[simp] theorem startCompression_v : (startCompression s).v = initVector s.h s.t s.fflag := by delta startCompression; rfl
@[simp] theorem startCompression_mw : (startCompression s).mw = messageWords s.block := by delta startCompression; rfl
@[simp] theorem startCompression_phase : (startCompression s).phase = .mix := by delta startCompression; rfl
@[simp] theorem startCompression_ridx : (startCompression s).ridx = 0 := by delta startCompression; rfl
@[simp] theorem startCompression_response : (startCompression s).response = s.response := by delta startCompression; rfl
@[simp] theorem startCompression_hostOps : (startCompression s).hostOps = s.hostOps := by delta startCompression; rfl
@[simp] theorem startCompression_turns : (startCompression s).turns = s.turns := by delta startCompression; rfl
@[simp] theorem startCompression_freeIndex : (startCompression s).freeIndex = s.freeIndex := by delta startCompression; rfl

/-! ### mixStep -/

@[simp] theorem mixStep_rounds : (mixStep s).rounds = s.rounds := by delta mixStep; rfl
@[simp] theorem mixStep_h : (mixStep s).h = s.h := by delta mixStep; rfl
@[simp] theorem mixStep_t : (mixStep s).t = s.t := by delta mixStep; rfl
@[simp] theorem mixStep_fflag : (mixStep s).fflag = s.fflag := by delta mixStep; rfl
@[simp] theorem mixStep_inLen : (mixStep s).inLen = s.inLen := by delta mixStep; rfl
@[simp] theorem mixStep_mem : (mixStep s).mem = s.mem := by delta mixStep; rfl
@[simp] theorem mixStep_status : (mixStep s).status = s.status := by delta mixStep; rfl
@[simp] theorem mixStep_hout : (mixStep s).hout = s.hout := by delta mixStep; rfl
@[simp] theorem mixStep_v : (mixStep s).v = mixRound s.v s.mw s.ridx.toNat := by delta mixStep; rfl
@[simp] theorem mixStep_mw : (mixStep s).mw = s.mw := by delta mixStep; rfl
@[simp] theorem mixStep_phase : (mixStep s).phase = s.phase := by delta mixStep; rfl
@[simp] theorem mixStep_ridx : (mixStep s).ridx = s.ridx + 1 := by delta mixStep; rfl
@[simp] theorem mixStep_response : (mixStep s).response = s.response := by delta mixStep; rfl
@[simp] theorem mixStep_hostOps : (mixStep s).hostOps = s.hostOps := by delta mixStep; rfl
@[simp] theorem mixStep_turns : (mixStep s).turns = s.turns := by delta mixStep; rfl
@[simp] theorem mixStep_freeIndex : (mixStep s).freeIndex = s.freeIndex := by delta mixStep; rfl

/-! ### finalStep -/

@[simp] theorem finalStep_rounds : (finalStep s).rounds = s.rounds := by delta finalStep; rfl
@[simp] theorem finalStep_h : (finalStep s).h = s.h := by delta finalStep; rfl
@[simp] theorem finalStep_t : (finalStep s).t = s.t := by delta finalStep; rfl
@[simp] theorem finalStep_fflag : (finalStep s).fflag = s.fflag := by delta finalStep; rfl
@[simp] theorem finalStep_inLen : (finalStep s).inLen = s.inLen := by delta finalStep; rfl
@[simp] theorem finalStep_mem : (finalStep s).mem = Memory.store s.mem 0x280 (encodeWords (finalizeVector s.h s.v).toList) := by delta finalStep; rfl
@[simp] theorem finalStep_status : (finalStep s).status = s.status.finalised := by delta finalStep; rfl
@[simp] theorem finalStep_hout : (finalStep s).hout = finalizeVector s.h s.v := by delta finalStep; rfl
@[simp] theorem finalStep_v : (finalStep s).v = s.v := by delta finalStep; rfl
@[simp] theorem finalStep_mw : (finalStep s).mw = s.mw := by delta finalStep; rfl
@[simp] theorem finalStep_phase : (finalStep s).phase = .idle := by delta finalStep; rfl
@[simp] theorem finalStep_ridx : (finalStep s).ridx = s.ridx := by delta finalStep; rfl
@[simp] theorem finalStep_response : (finalStep s).response = s.response := by delta finalStep; rfl
@[simp] theorem finalStep_hostOps : (finalStep s).hostOps = s.hostOps := by delta finalStep; rfl
@[simp] theorem finalStep_turns : (finalStep s).turns = s.turns := by delta finalStep; rfl
@[simp] theorem finalStep_freeIndex : (finalStep s).freeIndex = s.freeIndex := by delta finalStep; rfl

/-! ### resetEvent -/

@[simp] theorem resetEvent_rounds : (resetEvent s).rounds = 0 := by delta resetEvent State.reset; rfl
@[simp] theorem resetEvent_h : (resetEvent s).h = Vector.replicate 8 0 := by delta resetEvent State.reset; rfl
@[simp] theorem resetEvent_t : (resetEvent s).t = Vector.replicate 2 0 := by delta resetEvent State.reset; rfl
@[simp] theorem resetEvent_fflag : (resetEvent s).fflag = false := by delta resetEvent State.reset; rfl
@[simp] theorem resetEvent_inLen : (resetEvent s).inLen = 0 := by delta resetEvent State.reset; rfl
@[simp] theorem resetEvent_mem : (resetEvent s).mem = [] := by delta resetEvent State.reset; rfl
@[simp] theorem resetEvent_status : (resetEvent s).status = {} := by delta resetEvent State.reset; rfl
@[simp] theorem resetEvent_hout : (resetEvent s).hout = Vector.replicate 8 0 := by delta resetEvent State.reset; rfl
@[simp] theorem resetEvent_v : (resetEvent s).v = freeWords s.freeIndex := by delta resetEvent State.reset; rfl
@[simp] theorem resetEvent_mw : (resetEvent s).mw = freeWords (s.freeIndex + 16) := by delta resetEvent State.reset; rfl
@[simp] theorem resetEvent_phase : (resetEvent s).phase = .idle := by delta resetEvent State.reset; rfl
@[simp] theorem resetEvent_ridx : (resetEvent s).ridx = 0 := by delta resetEvent State.reset; rfl
@[simp] theorem resetEvent_response : (resetEvent s).response = s.response := by delta resetEvent State.reset; rfl
@[simp] theorem resetEvent_hostOps : (resetEvent s).hostOps = s.hostOps := by delta resetEvent State.reset; rfl
@[simp] theorem resetEvent_turns : (resetEvent s).turns = s.turns := by delta resetEvent State.reset; rfl
@[simp] theorem resetEvent_freeIndex : (resetEvent s).freeIndex = s.freeIndex + 32 := by delta resetEvent State.reset; rfl

end Laws
end Sys2Proof.Machine
end

