-- ==== Sys2Proof/Laws/Commands.lean ====
section
/-! SUPPORT. What command acceptance, the decode and the four commands can do, said once. -/

namespace Sys2Proof.Machine
namespace Laws

variable {s t : State} {i : Instr}

theorem acceptCommand_mix {f : State → State} (h : s.phase = .mix) : acceptCommand f s = .next (dropWrite s) := by
  simp [acceptCommand, h]

theorem acceptCommand_idle {f : State → State} (h : s.phase = .idle) : acceptCommand f s = .next (f s) := by
  simp [acceptCommand, h]

@[simp] theorem length_inbuf : s.inbuf.length = 213 := by simp [State.inbuf]

@[simp] theorem length_block : s.block.length = 128 := by simp [State.block]

@[simp] theorem length_outbuf : s.outbuf.length = 64 := by simp [State.outbuf]

/-- The frame's final-flag byte is INBUF[212], at address 0x1D4. -/
theorem flagByte_inbuf : flagByte s.inbuf = Memory.read s.mem 0x1D4 := by
  simp only [flagByte, State.inbuf]
  rw [getD_load _ _ _ _ (by decide)]

/-- A decode reports one of its two errors, or writes a whole set of arguments and goes on. -/
theorem decodeThen_cases (after : State → State) (s : State) :
    (∃ e, (e = .invalidInputLength ∨ e = .invalidFinalFlag) ∧ decodeInput s.inbuf s.inLen = .error e ∧
      decodeThen after s = raiseError e s) ∨
    (∃ args, args.block.length = 128 ∧ decodeInput s.inbuf s.inLen = .ok args ∧
      decodeThen after s = after (writeArguments args s)) := by
  cases h : decodeInput s.inbuf s.inLen with
  | error e => exact .inl ⟨e, decodeInput_error h, rfl, by simp only [decodeThen, h]⟩
  | ok args =>
    exact .inr ⟨args, length_block_of_decodeInput length_inbuf h, rfl, by simp only [decodeThen, h]⟩

/-- What an accepted command does, as a function of the state. -/
def effectOf : Instr → State → State
  | .clear, s => s.setStatus Status.clear
  | .decode, s => decodeThen finishDecode s
  | .compress, s => startCompression s
  | .decodeCompress, s => decodeThen startCompression s

/-- Every command is its effect behind the same acceptance. -/
theorem exec_eq (i : Instr) (s : State) : exec i s = acceptCommand (effectOf i) s := by
  cases i <;> rfl

/-- BLOCK addresses lie in the buffers. -/
theorem block_inBuffers {n : Nat} (hn : n = 128) : ∀ k < n, Memory.InBuffers (0x200 + k) := by
  intro k hk; right; omega

/-- The three buffers after a decode: BLOCK holds the decoded block, INBUF and OUTBUF are as before. -/
theorem buffers_writeArguments (hw : Memory.wf s.mem) {args : Arguments} (hb : args.block.length = 128) :
    (writeArguments args s).block = args.block ∧ (writeArguments args s).inbuf = s.inbuf ∧
    (writeArguments args s).outbuf = s.outbuf := by
  have hin := block_inBuffers hb
  refine ⟨?_, ?_, ?_⟩
  · simp only [State.block, writeArguments_mem, ← hb]; exact load_store _ _ hw hin
  · exact load_store_other _ _ hw hin _ _ (by omega)
  · exact load_store_other _ _ hw hin _ _ (by omega)

theorem wf_writeArguments (hw : Memory.wf s.mem) {args : Arguments} (hb : args.block.length = 128) :
    Memory.wf (writeArguments args s).mem := wf_store _ _ hw (block_inBuffers hb)

end Laws
end Sys2Proof.Machine
end

