-- ==== Sys2Proof/Laws/Operands.lean ====
section
/-! SUPPORT. The address map's inversion: an item is found only at its own address. -/

namespace Sys2Proof.Machine
namespace Laws

/-- A byte item is found only at its own address. -/
theorem addrNat_of_byteAt {a : Addr} {item : ByteItem} (h : byteAt a = some item) : a.toNat = item.addrNat := by
  unfold byteAt at h
  generalize a.toNat = n at h ⊢
  unfold byteAtNat at h
  split_ifs at h <;> cases h <;> simp only [ByteItem.addrNat] <;> omega

/-- The slot number of a register: its address over 8 (R51). -/
def slotOf : Reg → Nat
  | .cmd => 0 | .status => 1 | .inLen => 2 | .rounds => 3 | .fflag => 4 | .ridx => 5
  | .t k => 6 + k.val | .h k => 8 + k.val | .hout k => 16 + k.val | .iv k => 24 + k.val

theorem toNat_addr (r : Reg) : r.addr.toNat = 8 * slotOf r := by
  cases r <;> simp only [Reg.addr, slotOf, BitVec.toNat_ofNat] <;> omega

theorem slotOf_of_regSlot {k : Nat} {r : Reg} (h : regSlot k = some r) : k = slotOf r := by
  unfold regSlot at h
  split_ifs at h <;> cases h <;> simp only [slotOf] <;> omega

/-- A register is found only at its own address. -/
theorem addr_of_regAt {a : Addr} {r : Reg} (h : regAt a = some r) : a = r.addr := by
  apply BitVec.eq_of_toNat_eq
  rw [toNat_addr]
  unfold regAt at h
  split at h
  · rw [← slotOf_of_regSlot h]; omega
  · cases h

end Laws
end Sys2Proof.Machine
end

