-- ==== Sys2Proof/Laws/Bus.lean ====
section
/-! SUPPORT. What a host access and a host turn can do, said once. -/

namespace Sys2Proof.Machine
namespace Laws

variable {s : State}

theorem writeItem_mix {f : State → State} (h : s.phase = .mix) : writeItem f s = .next (dropWrite s) := by
  simp [writeItem, h]

theorem writeItem_idle {f : State → State} (h : s.phase = .idle) : writeItem f s = .next (f s) := by
  simp [writeItem, h]

theorem writeCommand_mix {c : Word} (h : s.phase = .mix) : writeCommand c s = .next (dropWrite s) := by
  simp only [writeCommand, h]

theorem writeCommand_illegal {c : Word} (h : s.phase = .idle) (hd : decodeCommand c = none) :
    writeCommand c s = .next (raiseError .illegalCommand s) := by
  simp only [writeCommand, h, hd]

/-- A legal command word is its command, busy or not. -/
theorem writeCommand_legal {c : Word} {i : Instr} (hd : decodeCommand c = some i) : writeCommand c s = exec i s := by
  cases h : s.phase with
  | mix => rw [writeCommand_mix h, exec_eq, acceptCommand_mix h]
  | idle => simp only [writeCommand, h, hd]

/-- What an access that lands in an idle machine can change. -/
inductive IdleEffect : Access → State → State → Prop where
  | inLen (s : State) (v : Word) : IdleEffect (.regWrite 0x010#12 v) s (s.setInLen v)
  | rounds (s : State) (v : Word) : IdleEffect (.regWrite 0x018#12 v) s (s.setRounds v)
  | fflag (s : State) (v : Word) : IdleEffect (.regWrite 0x020#12 v) s (s.setFflag v)
  | t (s : State) (k : Fin 2) (v : Word) : IdleEffect (.regWrite (Reg.t k).addr v) s (s.setT k v)
  | h (s : State) (k : Fin 8) (v : Word) : IdleEffect (.regWrite (Reg.h k).addr v) s (s.setH k v)
  | inbuf (s : State) (p : Addr) (k : Fin 213) (b : Byte) (hp : p.toNat = 0x100 + k.val) :
      IdleEffect (.byteWrite p b) s (s.setByte (0x100 + k.val) b)
  | block (s : State) (p : Addr) (k : Fin 128) (b : Byte) (hp : p.toNat = 0x200 + k.val) :
      IdleEffect (.byteWrite p b) s (s.setByte (0x200 + k.val) b)
  | illegal (s : State) (c : Word) (hd : decodeCommand c = none) :
      IdleEffect (.regWrite 0x000#12 c) s (raiseError .illegalCommand s)
  | command (s : State) (c : Word) (i : Instr) (hd : decodeCommand c = some i) :
      IdleEffect (.regWrite 0x000#12 c) s (effectOf i s)

/-- The writes that are dropped while busy: those that are no bus error. -/
inductive Droppable : Access → Prop where
  | reg (r : Reg) (v : Word) (hw : r.writable = true) : Droppable (.regWrite r.addr v)
  | byte (x : ByteItem) (p : Addr) (b : Byte) (hp : p.toNat = x.addrNat) (hw : x.writable = true) :
      Droppable (.byteWrite p b)

/-- An access does nothing, is a write dropped while busy, or has one idle effect. -/
theorem busEffect_cases (a : Access) (s : State) :
    busEffect a s = .next s ∨ (s.phase = .mix ∧ Droppable a ∧ busEffect a s = .next (dropWrite s)) ∨
    (s.phase = .idle ∧ ∃ t, busEffect a s = .next t ∧ IdleEffect a s t) := by
  have item : ∀ f : State → State, Droppable a → IdleEffect a s (f s) →
      (s.phase = .mix ∧ Droppable a ∧ writeItem f s = .next (dropWrite s)) ∨
      (s.phase = .idle ∧ ∃ t, writeItem f s = .next t ∧ IdleEffect a s t) := by
    intro f hd hf
    cases hp : s.phase with
    | mix => exact .inl ⟨rfl, hd, writeItem_mix hp⟩
    | idle => exact .inr ⟨rfl, _, writeItem_idle hp, hf⟩
  have cmd : ∀ v : Word, a = .regWrite 0x000#12 v →
      (s.phase = .mix ∧ Droppable a ∧ writeCommand v s = .next (dropWrite s)) ∨
      (s.phase = .idle ∧ ∃ t, writeCommand v s = .next t ∧ IdleEffect a s t) := by
    rintro v rfl
    cases hp : s.phase with
    | mix => exact .inl ⟨rfl, .reg .cmd v rfl, writeCommand_mix hp⟩
    | idle =>
      refine .inr ⟨rfl, ?_⟩
      cases hd : decodeCommand v with
      | none => exact ⟨_, writeCommand_illegal hp hd, .illegal s v hd⟩
      | some i =>
        exact ⟨effectOf i s, by rw [writeCommand_legal hd, exec_eq, acceptCommand_idle hp], .command s v i hd⟩
  cases a with
  | regRead p => exact .inl rfl
  | byteRead p => exact .inl rfl
  | regWrite p v =>
    simp only [busEffect]
    cases hr : regAt p with
    | none => exact .inl rfl
    | some r =>
      obtain rfl := addr_of_regAt hr
      cases r with
      | cmd => exact .inr (cmd v rfl)
      | inLen => exact .inr (item (State.setInLen v) (.reg .inLen v rfl) (.inLen s v))
      | rounds => exact .inr (item (State.setRounds v) (.reg .rounds v rfl) (.rounds s v))
      | fflag => exact .inr (item (State.setFflag v) (.reg .fflag v rfl) (.fflag s v))
      | t k => exact .inr (item (State.setT k v) (.reg (.t k) v rfl) (.t s k v))
      | h k => exact .inr (item (State.setH k v) (.reg (.h k) v rfl) (.h s k v))
      | status => exact .inl rfl
      | ridx => exact .inl rfl
      | hout k => exact .inl rfl
      | iv k => exact .inl rfl
  | byteWrite p b =>
    simp only [busEffect]
    cases hb : byteAt p with
    | none => exact .inl rfl
    | some x =>
      have hp := addrNat_of_byteAt hb
      cases x with
      | inbuf k => exact .inr (item (State.setByte (0x100 + k.val) b) (.byte (.inbuf k) p b hp rfl) (.inbuf s p k b hp))
      | block k => exact .inr (item (State.setByte (0x200 + k.val) b) (.byte (.block k) p b hp rfl) (.block s p k b hp))
      | outbuf k => exact .inl rfl
      | sigma r j => exact .inl rfl
      | rot k => exact .inl rfl

/-- A host turn is no access at all, a POLL's read, or the first planned access, on a state in which only the host's plans and the
recorded answer have moved. -/
theorem hostStep_cases (s : State) :
    hostStep s = .next s ∨ (∃ ops r, hostStep s = .next ((s.planned ops).answered r)) ∨
    ∃ a rest r, s.hostOps = .access a :: rest ∧ hostStep s = busEffect a ((s.planned rest).answered r) := by
  cases h : s.hostOps with
  | nil => exact .inl (by simp only [hostStep, h])
  | cons op rest =>
    cases op with
    | access a =>
      exact .inr (.inr ⟨a, rest, busResponse a (s.planned rest), rfl, by simp only [hostStep, h, hostAccess]⟩)
    | poll =>
      refine .inr (.inl ⟨if pollEnds s then rest else s.hostOps, ?_⟩)
      exact ⟨_, by simp only [hostStep, h, hostAccess]; rfl⟩

end Laws
end Sys2Proof.Machine
end

