-- ==== Sys2Proof/Laws/Engine.lean ====
section
/-! SUPPORT. What an engine step can do, said once, and the buffers after a finalisation. -/

namespace Sys2Proof.Machine
namespace Laws

variable {s : State}

/-- The engine's turn: idle, one mixing round, the finalisation, or the state no run reaches. -/
theorem engineStep_cases (s : State) :
    (s.phase = .idle ∧ engineStep s = .next s) ∨
    (s.phase = .mix ∧ s.ridx < s.rounds ∧ engineStep s = .next (mixStep s)) ∨
    (s.phase = .mix ∧ s.ridx = s.rounds ∧ engineStep s = .next (finalStep s)) ∨
    (s.phase = .mix ∧ s.rounds < s.ridx ∧ engineStep s = .fault .ridxPastRounds) := by
  cases hp : s.phase with
  | idle => exact .inl ⟨rfl, by simp only [engineStep, hp]⟩
  | mix =>
    by_cases h1 : s.ridx < s.rounds
    · exact .inr (.inl ⟨rfl, h1, by simp only [engineStep, hp, if_pos h1]⟩)
    · by_cases h2 : s.ridx = s.rounds
      · exact .inr (.inr (.inl ⟨rfl, h2, by simp only [engineStep, hp, if_neg h1, if_pos h2]⟩))
      · refine .inr (.inr (.inr ⟨rfl, ?_, by simp only [engineStep, hp, if_neg h1, if_neg h2]⟩))
        simp only [BitVec.lt_def] at h1 ⊢
        have : s.ridx.toNat ≠ s.rounds.toNat := fun h => h2 (BitVec.eq_of_toNat_eq h)
        omega

/-- The result's 64 bytes lie in the buffers. -/
theorem outbuf_inBuffers {n : Nat} (hn : n = 64) : ∀ k < n, Memory.InBuffers (0x280 + k) := by
  intro k hk; right; omega

theorem length_result (r : Words8) : (encodeWords r.toList).length = 64 := by simp

theorem wf_finalStep (hw : Memory.wf s.mem) : Memory.wf (finalStep s).mem :=
  wf_store _ _ hw (outbuf_inBuffers (length_result _))

/-- The three buffers after a finalisation: OUTBUF holds the encoded result, BLOCK and INBUF are as before. -/
theorem buffers_finalStep (hw : Memory.wf s.mem) :
    (finalStep s).outbuf = encodeWords (finalizeVector s.h s.v).toList ∧ (finalStep s).block = s.block ∧
    (finalStep s).inbuf = s.inbuf := by
  have hin := outbuf_inBuffers (length_result (finalizeVector s.h s.v))
  refine ⟨?_, ?_, ?_⟩
  · have := load_store _ _ hw hin
    rw [length_result] at this
    exact this
  · exact load_store_other _ _ hw hin _ _ (by omega)
  · exact load_store_other _ _ hw hin _ _ (by omega)

end Laws
end Sys2Proof.Machine
end

