-- ==== Sys2Proof/Laws/PerInstr.lean ====
section
/-! SUPPORT. Statements made per instruction: every command is well-formed, its word is legal, and decoding its word gives it back. -/

namespace Sys2Proof.Laws.Encoding

/-- A command's word is legal and stands for it (R89, R90). -/
def Statement (i : Instr) : Prop :=
  i.WellFormed ∧ CommandWord.Legal (encode i) ∧ decodeCommand (encode i) = some i

theorem clear : Statement .clear := ⟨trivial, by decide, by decide⟩

theorem decode : Statement .decode := ⟨trivial, by decide, by decide⟩

theorem compress : Statement .compress := ⟨trivial, by decide, by decide⟩

theorem decodeCompress : Statement .decodeCompress := ⟨trivial, by decide, by decide⟩

end Sys2Proof.Laws.Encoding
end

