-- ==== Sys2Proof/Laws/Step.lean ====
section
/-! SUPPORT. What a step can do, said once: every claim about all steps is a case analysis on `step_cases`. -/

namespace Sys2Proof.Machine
namespace Laws

/-- The state a host's access starts from in a step: the turn used up, the host's plans and the recorded answer moved on. -/
def hostState (s : State) (ops : List HostOp) (r : Response) : State := (s.afterTurn.planned ops).answered r

/-- The step relation: the next state of a step, by whose turn it is. -/
theorem step_cases {s t : State} (h : step s = .next t) :
    (s.turn = .reset ∧ t = resetEvent s.afterTurn) ∨
    (s.turn = .engine ∧ s.phase = .idle ∧ t = s.afterTurn) ∨
    (s.turn = .engine ∧ s.phase = .mix ∧ s.ridx < s.rounds ∧ t = mixStep s.afterTurn) ∨
    (s.turn = .engine ∧ s.phase = .mix ∧ s.ridx = s.rounds ∧ t = finalStep s.afterTurn) ∨
    (s.turn = .host ∧ t = s.afterTurn) ∨
    (s.turn = .host ∧ ∃ ops r, t = hostState s ops r) ∨
    (s.turn = .host ∧ s.phase = .mix ∧ ∃ a ops r, s.hostOps = .access a :: ops ∧ Droppable a ∧
      t = dropWrite (hostState s ops r)) ∨
    (s.turn = .host ∧ s.phase = .idle ∧ ∃ a ops r, s.hostOps = .access a :: ops ∧
      IdleEffect a (hostState s ops r) t) := by
  unfold step at h
  cases ht : s.turn with
  | reset =>
    rw [ht] at h
    injection h with h
    exact .inl ⟨rfl, h.symm⟩
  | engine =>
    rw [ht] at h
    simp only [runTurn] at h
    rcases engineStep_cases s.afterTurn with ⟨hp, e⟩ | ⟨hp, hr, e⟩ | ⟨hp, hr, e⟩ | ⟨hp, hr, e⟩ <;> rw [e] at h <;>
      simp only [afterTurn_phase] at hp
    · injection h with h; exact .inr (.inl ⟨rfl, hp, h.symm⟩)
    · injection h with h; exact .inr (.inr (.inl ⟨rfl, hp, by simpa using hr, h.symm⟩))
    · injection h with h; exact .inr (.inr (.inr (.inl ⟨rfl, hp, by simpa using hr, h.symm⟩)))
    · cases h
  | host =>
    rw [ht] at h
    simp only [runTurn] at h
    rcases hostStep_cases s.afterTurn with e | ⟨ops, r, e⟩ | ⟨a, ops, r, ha, e⟩ <;> rw [e] at h
    · injection h with h
      exact .inr (.inr (.inr (.inr (.inl ⟨rfl, h.symm⟩))))
    · injection h with h
      exact .inr (.inr (.inr (.inr (.inr (.inl ⟨rfl, ops, r, h.symm⟩)))))
    · rcases busEffect_cases a ((s.afterTurn.planned ops).answered r) with e | ⟨hp, hd, e⟩ | ⟨hp, u, e, hu⟩ <;>
        rw [e] at h <;> injection h with h
      · exact .inr (.inr (.inr (.inr (.inr (.inl ⟨rfl, ops, r, h.symm⟩)))))
      · exact .inr (.inr (.inr (.inr (.inr (.inr (.inl
          ⟨rfl, by simpa using hp, a, ops, r, by simpa using ha, hd, h.symm⟩))))))
      · exact .inr (.inr (.inr (.inr (.inr (.inr (.inr
          ⟨rfl, by simpa using hp, a, ops, r, by simpa using ha, h ▸ hu⟩))))))

/-- A run takes its first step. -/
theorem runFor_succ {s t : State} (n : Nat) (h : step s = .next t) : runFor (n + 1) s = runFor n t := by
  simp only [runFor, h]

end Laws
end Sys2Proof.Machine
end

