-- ==== Sys2Proof/Tests/Slice0.lean ====
section
/-! SUPPORT. Tests on fixed values, each with its source in spec/, and the witnesses of the statements' hypotheses. -/

namespace Sys2Proof.Machine
namespace Tests

/-! ### Small states and helpers -/

/-- The state of an outcome that goes on. -/
def after : Host.Outcome State Fault Refusal → State
  | .next s => s
  | .fault _ => State.reset
  | .refused _ => State.reset

/-- The outcome goes on. -/
def goesOn : Host.Outcome State Fault Refusal → Bool
  | .next _ => true
  | .fault _ => false
  | .refused _ => false

theorem eq_next {o : Host.Outcome State Fault Refusal} (h : goesOn o = true) : o = .next (after o) := by
  cases o with
  | next s => rfl
  | fault f => cases h
  | refused r => cases h

/-- An idle state with IN_LEN = n and INBUF[212] = b, the other frame bytes 0. -/
def framed (n : Word) (b : Byte) : State :=
  { State.reset with inLen := n, mem := Memory.write [] 0x1D4 b }

/-- A busy state with no round left: COMPRESS accepted with ROUNDS = 0. -/
def busy : State := startCompression State.reset

/-- A busy state with n rounds to go. -/
def busyFor (n : BitVec 32) : State := startCompression { State.reset with rounds := n }

/-- RIDX above ROUNDS while busy: a state that no run reaches. -/
def past : State := { busyFor 0 with ridx := 1 }

/-- The host writes v at a in its turn. -/
def hostWrites (s : State) (a : Addr) (v : Word) : State :=
  { s with turns := [.host], hostOps := [.access (.regWrite a v)] }

/-- A frame whose flag byte is 1 decodes. -/
theorem decodes_of_flag {frame : List Byte} (h : flagByte frame = 0x01#8) :
    decodeInput frame 213 = .ok (frameArguments frame) := by simp [decodeInput, h]

/-- The 213 bytes of a frame: bytes counting up from 0 and a given flag byte. -/
def countingFrame (b : Byte) : List Byte := ((List.range 212).map (BitVec.ofNat 8)) ++ [b]

/-! ### WellFormed: each check refuses a word that fails it alone (R88 to R90; P4 lines 8 and 9 of 95 §3) -/

theorem test_reserved_bit_8_refused : ¬CommandWord.Legal 0x102 ∧ CommandWord.OpcodeKnown 0x102 ∧
    decodeCommand 0x102 = none := by decide

theorem test_reserved_bit_63_refused : ¬CommandWord.Legal 0x8000000000000001 ∧
    CommandWord.OpcodeKnown 0x8000000000000001 ∧ decodeCommand 0x8000000000000001 = none := by decide

theorem test_opcode_4_refused : ¬CommandWord.Legal 0x4 ∧ CommandWord.ReservedZero 0x4 ∧ decodeCommand 0x4 = none := by
  decide

theorem test_opcode_255_refused : ¬CommandWord.Legal 0xFF ∧ CommandWord.ReservedZero 0xFF ∧
    decodeCommand 0xFF = none := by decide

theorem test_legal_words : CommandWord.Legal 0x0 ∧ CommandWord.Legal 0x3 := by decide

/-! ### Decoding: the words of R89 bit by bit, OP = c[7:0] below RSV = c[63:8] -/

theorem test_word_clear : decodeCommand (0#56 ++ 0b00000000#8) = some .clear := by decide
theorem test_word_decode : decodeCommand (0#56 ++ 0b00000001#8) = some .decode := by decide
theorem test_word_compress : decodeCommand (0#56 ++ 0b00000010#8) = some .compress := by decide
theorem test_word_decode_compress : decodeCommand (0#56 ++ 0b00000011#8) = some .decodeCompress := by decide
theorem test_encode_words : [Instr.clear, .decode, .compress, .decodeCompress].map encode = [0x0, 0x1, 0x2, 0x3] := by
  decide
theorem test_table_word : decodeTableWord 64 2 = some .compress ∧ decodeTableWord 8 3 = some .decodeCompress ∧
    decodeTableWord 64 (2 ^ 63 + 2) = none ∧ decodeTableWord 128 2 = none := by decide

/-! ### Codec and word primitives (95 §2.1, §2.2) -/

theorem test_codec_words : chunkWords 1 [0x01, 0x02, 0x03, 0x04, 0x05, 0x06, 0x07, 0x08] = [0x0807060504030201] ∧
    encodeWords [0x0123456789ABCDEF] = [0xEF, 0xCD, 0xAB, 0x89, 0x67, 0x45, 0x23, 0x01] := by decide
theorem test_codec_length : (decodeWords (List.replicate 7 0)).toOption = none ∧
    (decodeWords (List.replicate 9 0)).toOption = none ∧ (decodeWords []).toOption = some [] := by decide
theorem test_be32 : decodeBE32 [0x00, 0x00, 0x01, 0x00] = 256 ∧ decodeBE32 [0xFF, 0xFF, 0xFF, 0xFF] = 4294967295 := by
  decide
theorem test_add64_wraps : add64 0xFFFFFFFFFFFFFFFF 1 = 0 ∧ add64 0x8000000000000000 0x8000000000000001 = 1 := by decide
theorem test_rotr64 : rotr64 0x0123456789ABCDEF 24 = 0xABCDEF0123456789 ∧ rotr64 1 63 = 2 := by decide

/-! ### Datapath (95 §2.3 to §2.5) -/

/-- 95 §2.3, row 2: a = 0, b = 1, c = 2, d = 3, all zero, x = 1. -/
theorem test_mixing_function : mixG (Vector.replicate 16 0) 0 1 2 3 1 0 =
    #v[0x0000000000000101, 0x0202000200020200, 0x0101000100010000, 0x0101000000010000, 0, 0, 0, 0, 0, 0, 0, 0, 0, 0, 0,
       0] := by decide +kernel

/-- 95 §2.4: one round on INIT(IV, (0, 0), false) with zero message Words; four of its lanes. -/
theorem test_round :
    let v := mixRound (initVector Rom.iv #v[0, 0] false) (Vector.replicate 16 0) 0
    v[0] = 0xE2494A9911B5821A ∧ v[5] = 0x5D766990466A3E11 ∧ v[10] = 0xAA8EE9B578364ECB ∧ v[15] = 0x1A7C295868206DF8 := by
  decide +kernel

/-- 95 §2.4: rows 0 and 1 chosen by the round index, with m = decode_words(00 01 … 7F). -/
theorem test_round_rows :
    let m := messageWords ((List.range 128).map (BitVec.ofNat 8))
    let v := initVector Rom.iv #v[0, 0] false
    (mixRound v m 10)[0] = 0x6D7F1A6785C014A8 ∧ (mixRound v m 10)[15] = 0x4931BB8406A441B1 ∧
    (mixRound v m 1)[0] = 0xCF022C81D8A74CEF := by decide +kernel

/-- 95 §2.5: INIT(0, (1, 2), true). -/
theorem test_initial_vector :
    let v := initVector (Vector.replicate 8 0) #v[1, 2] true
    v[12] = 0x510E527FADE682D0 ∧ v[13] = 0x9B05688C2B3E6C1D ∧ v[14] = 0xE07C265404BE4294 ∧ v[15] = 0x5BE0CD19137E2179 := by
  decide +kernel

/-! ### Commands (95 §1.2, §1.4, P4) -/

theorem test_clear : (after (exec .clear (framed 212 0))).status.word = 0 := by decide +kernel

/-- 95 §1.2, row 9: the length is checked before the flag. -/
theorem test_decode_length_first : (after (exec .decode (framed 212 0x02))).status.word = 0x104 := by decide +kernel

/-- 95 §1.2, rows 5 and 8. -/
theorem test_decode_flags : (after (exec .decode (framed 213 0xFF))).status.word = 0x204 ∧
    (after (exec .decode (framed 213 0x01))).status.word = 0x2 ∧ (after (exec .decode (framed 213 0x01))).fflag = true := by
  decide +kernel

/-- 95 §1.4 and P4 line 16: STATUS after acceptance, and the zero-round result that does not depend on h, here 0. -/
theorem test_compress_zero_rounds : (after (exec .compress State.reset)).status.word = 0x1 ∧
    (after (engineStep busy)).hout = Rom.iv ∧ (after (engineStep busy)).status.word = 0x2 := by decide +kernel

/-- P4 lines 16 and 17: a write while busy is dropped, STATUS = 0x9. -/
theorem test_dropped_write : (after (hostAccess (.regWrite 0x040 0x1234) busy)).status.word = 0x9 ∧
    (after (hostAccess (.regWrite 0x040 0x1234) busy)).h = busy.h := by decide +kernel

/-- DECODE_COMPRESS on the frame of 95 §1.2, row 8 (all zero, flag 1), then its one engine step: lane 6 is NOT IV[6] (95 §1.5). -/
theorem test_decode_compress :
    let t := after (exec .decodeCompress (framed 213 0x01))
    t.status.word = 0x1 ∧ (after (engineStep t)).hout[6] = 0xE07C265404BE4294 := by decide +kernel

theorem test_decode_compress_error : (after (exec .decodeCompress (framed 214 0x01))).status.word = 0x104 ∧
    (after (exec .decodeCompress (framed 214 0x01))).phase = .idle := by decide +kernel

/-- P4 lines 8, 10, 11 and 12. -/
theorem test_illegal_and_bus_errors : (after (hostAccess (.regWrite 0x000 0x4) State.reset)).status.word = 0x404 ∧
    busResponse (.regRead 0x004) State.reset = .busError ∧ busResponse (.regWrite 0x008 0) State.reset = .busError ∧
    busResponse (.byteRead 0x1D5) State.reset = .busError := by decide +kernel

/-! ### Witnesses: reset, invariant and steps -/

/-- `ResetEventSetsEveryItem`, in a busy state. -/
theorem witness_reset_turn : ({ busy with turns := [.reset] } : State).turn = .reset := by decide

theorem reset_inv : State.reset.Inv := by
  refine ⟨by decide, by decide, by decide +kernel, fun h => by cases h⟩

theorem busy_inv : (busyFor 1).Inv := by
  refine ⟨by decide, by decide, by decide +kernel, fun _ => by decide +kernel⟩

/-- `StepKeepsInvariant`, `StepFromInvariantGoesOn` and `StatusFieldsAndInvariants`, in a busy state. -/
theorem witness_step_inv : (busyFor 1).Inv ∧ (busyFor 1).status.Consistent (busyFor 1).phase ∧
    step (busyFor 1) = .next (after (step (busyFor 1))) :=
  ⟨busy_inv, by decide, eq_next (by decide +kernel)⟩

/-! ### Witnesses: commands -/

/-- `ClearZeroesStatus`, `CompressAccepted`: idle and busy states. -/
theorem witness_idle_busy : State.reset.phase = .idle ∧ busy.phase = .mix := by decide

/-- `DecodeWritesArgumentsOrReports`, `DecodeCompressAcceptedOrReports`, `ErrorPriority`: one state for each clause; the flag's
boundary values 0, 1, 2 and 0xFF, the length's 212 and 214. -/
theorem witness_decode_clauses :
    (∀ x ∈ [framed 212 0, framed 214 1, framed 213 0, framed 213 1, framed 213 2, framed 213 0xFF],
      x.phase = .idle ∧ Memory.wf x.mem) ∧
    (framed 212 0).inLen ≠ 213 ∧ (framed 214 1).inLen ≠ 213 ∧ (framed 213 0).inLen = 213 ∧
    readByte (.inbuf 212) (framed 213 0) = 0 ∧ readByte (.inbuf 212) (framed 213 1) = 1 ∧
    readByte (.inbuf 212) (framed 213 2) = 2 ∧ readByte (.inbuf 212) (framed 213 0xFF) = 0xFF := by decide +kernel

/-- `IllegalCommandOnlyReports`: a word for each ground, at OP's boundary values, and its state idle or busy. -/
theorem witness_illegal_words : (0x102 : Word).extractLsb' 8 56 ≠ 0 ∧ 0x04 ≤ ((0x4 : Word).extractLsb' 0 8).toNat ∧
    0x04 ≤ ((0xFF : Word).extractLsb' 0 8).toNat ∧ ¬0x04 ≤ ((0x3 : Word).extractLsb' 0 8).toNat ∧
    ¬CommandWord.Legal 0x102 ∧ State.reset.phase = .idle ∧ busy.phase = .mix := by decide

/-- `FrameOfClear`, `FrameOfDecode`, `FrameOfCompress`, `FrameOfDecodeCompress`: they run in an idle state that decodes. -/
theorem witness_frames : Memory.wf (framed 213 1).mem ∧ ¬DecodeFails (framed 213 1) ∧
    (∀ i ∈ [Instr.clear, .decode, .compress, .decodeCompress], exec i (framed 213 1) = .next (after (exec i (framed 213 1)))) := by
  refine ⟨by decide, by decide +kernel, fun i _ => eq_next ?_⟩
  cases i <;> decide +kernel

/-- The same frames where the command is dropped, and where it reports an error. -/
theorem witness_frames_stopped : busy.phase = .mix ∧ Memory.wf busy.mem ∧ DecodeFails (framed 213 2) ∧
    Memory.wf (framed 213 2).mem ∧
    (∀ i ∈ [Instr.clear, .decode, .compress, .decodeCompress], exec i busy = .next (after (exec i busy)) ∧
      exec i (framed 213 2) = .next (after (exec i (framed 213 2)))) := by
  refine ⟨rfl, by decide, by decide +kernel, by decide, fun i _ => ⟨eq_next ?_, eq_next ?_⟩⟩ <;> cases i <;> decide +kernel

/-! ### Witnesses: encodings -/

/-- `FrameEncodingRoundTrip`: a block of 128 bytes, and a frame of 213 that decodes. -/
theorem witness_frame : (field (countingFrame 1) 68 128).length = 128 ∧ (countingFrame 1).length = 213 ∧
    decodeInput (countingFrame 1) 213 = .ok (frameArguments (countingFrame 1)) := by
  exact ⟨by decide +kernel, by decide +kernel, decodes_of_flag (by decide +kernel)⟩

/-- `FrameFieldsAtTheirOffsets`, `DecoderChecksInOrder`: a frame for each clause. -/
theorem witness_frame_clauses :
    (∀ b ∈ [(0 : Byte), 1, 2, 0xFF], (countingFrame b).length = 213 ∧ (countingFrame b).getD 212 0 = b ∧
      (countingFrame b).getLast? = some b) ∧ (212 : Word) ≠ 213 := by decide +kernel

/-- `CodecRoundTrip`, `CodecIsLittleEndian`: byte strings at the clauses' boundaries: 0, 7, 8, 9 and 16 bytes. -/
theorem witness_codec : ([] : List Byte).length % 8 = 0 ∧ (List.replicate 8 (0 : Byte)).length % 8 = 0 ∧
    (List.replicate 16 (0 : Byte)).length % 8 = 0 ∧ (List.replicate 7 (0 : Byte)).length % 8 ≠ 0 ∧
    (List.replicate 9 (0 : Byte)).length % 8 ≠ 0 ∧ (1 : Nat) < (List.replicate 16 (0 : Byte)).length / 8 ∧
    (0 : Nat) < [(0x0123456789ABCDEF : Word)].length := by decide

/-- `AddressMapRoundTrip`: addresses at the ends of the map's ranges. -/
theorem witness_map : regAt 0x000 = some .cmd ∧ regAt 0x0F8 = some (.iv 7) ∧ regAt 0x100 = none ∧ regAt 0x0F9 = none ∧
    byteAt 0x100 = some (.inbuf 0) ∧ byteAt 0x1D4 = some (.inbuf 212) ∧ byteAt 0x1D5 = none ∧ byteAt 0x1FF = none ∧
    byteAt 0x200 = some (.block 0) ∧ byteAt 0x27F = some (.block 127) ∧ byteAt 0x2BF = some (.outbuf 63) ∧
    byteAt 0x35F = some (.sigma 9 15) ∧ byteAt 0x363 = some (.rot 3) ∧ byteAt 0x364 = none ∧ byteAt 0x0FF = none := by
  decide +kernel

/-! ### Witnesses: steps and turns -/

/-- `StepRunsTheWrittenCommand`. -/
theorem witness_written_command : (hostWrites State.reset 0x000 0x2).turn = .host ∧
    (hostWrites State.reset 0x000 0x2).hostOps = .access (.regWrite 0x000 0x2) :: [] ∧
    decodeCommand 0x2 = some .compress := by decide

/-- `PlacedWordRunsNext`: every table row's word, in the table's 64 bits. -/
theorem witness_placed_words : decodeTableWord 64 0 = some .clear ∧ decodeTableWord 64 1 = some .decode ∧
    decodeTableWord 64 2 = some .compress ∧ decodeTableWord 64 3 = some .decodeCompress := by decide

/-- `TurnsFollowTheSchedule`: a state for each clause. -/
theorem witness_turns : (hostWrites busy 0x000 0x2).turns = .host :: [] ∧
    ({ busy with turns := [.engine] } : State).turns = .engine :: [] ∧
    ({ busy with turns := [.reset] } : State).turns = .reset :: [] ∧ (busy.turns = [] ∧ busy.phase = .mix) ∧
    (State.reset.turns = [] ∧ State.reset.phase = .idle) ∧ State.reset.hostOps = [] := by decide

/-- `PollRepeatsWhileBusy`: polling a busy and an idle machine. -/
theorem witness_poll : ({ busy with hostOps := [.poll] } : State).hostOps = .poll :: [] ∧ busy.status.busy = true ∧
    State.reset.status.busy = false := by decide

/-- `FramePseudoOperationLoadsTheFrame`. -/
theorem witness_frame_line :
    let s : State := { State.reset with hostOps := (Line.frame (countingFrame 1)).expand }
    s.phase = .idle ∧ Memory.wf s.mem ∧ s.turns = [] ∧ (countingFrame 1).length = 213 ∧
    s.hostOps = (Line.frame (countingFrame 1)).expand := ⟨rfl, by decide, rfl, by decide +kernel, rfl⟩

/-! ### Witnesses: host accesses -/

/-- `ItemWritesWhileBusyAreDropped`: the boundary addresses of its ranges. -/
theorem witness_dropped_addresses : busy.phase = .mix ∧
    (∀ a ∈ [(0x000 : Addr), 0x010, 0x020, 0x030, 0x078], a.toNat % 8 = 0 ∧ a.toNat ≤ 0x078 ∧ a ≠ 0x008 ∧ a ≠ 0x028) ∧
    (∀ a ∈ [(0x100 : Addr), 0x1D4, 0x200, 0x27F],
      (0x100 ≤ a.toNat ∧ a.toNat ≤ 0x1D4) ∨ (0x200 ≤ a.toNat ∧ a.toNat ≤ 0x27F)) := by
  simp only [List.forall_mem_cons, List.not_mem_nil, false_implies, implies_true]; decide

/-- `BusErrorsHaveNoEffect`: each clause at the ends of its ranges. -/
theorem witness_bus_errors :
    (∀ a ∈ [(0x001 : Addr), 0x0FF, 0x100, 0xFFF], a.toNat % 8 ≠ 0 ∨ 0x0FF < a.toNat) ∧
    (∀ a ∈ [(0x000 : Addr), 0x0FF, 0x1D5, 0x1FF, 0x364, 0xFFF],
      a.toNat < 0x100 ∨ (0x1D5 ≤ a.toNat ∧ a.toNat ≤ 0x1FF) ∨ 0x364 ≤ a.toNat) ∧
    (∀ a ∈ [(0x008 : Addr), 0x028, 0x080, 0x0FF], a = 0x008 ∨ a = 0x028 ∨ (0x080 ≤ a.toNat ∧ a.toNat ≤ 0x0FF)) ∧
    (∀ a ∈ [(0x280 : Addr), 0x363, 0xFFF], 0x280 ≤ a.toNat) := by
  simp only [List.forall_mem_cons, List.not_mem_nil, false_implies, implies_true]; decide

/-- `ByteReadsReturnItems`: each clause at the ends of its range. -/
theorem witness_byte_reads : (∀ a ∈ [(0x100 : Addr), 0x1D4], 0x100 ≤ a.toNat ∧ a.toNat ≤ 0x1D4) ∧
    (∀ a ∈ [(0x200 : Addr), 0x27F], 0x200 ≤ a.toNat ∧ a.toNat ≤ 0x27F) ∧
    (∀ a ∈ [(0x280 : Addr), 0x2BF], 0x280 ≤ a.toNat ∧ a.toNat ≤ 0x2BF) ∧
    (0x2C0 : Addr).toNat = 0x2C0 + 16 * (0 : Fin 10).val + (0 : Fin 16).val ∧
    (0x35F : Addr).toNat = 0x2C0 + 16 * (9 : Fin 10).val + (15 : Fin 16).val ∧
    (0x360 : Addr).toNat = 0x360 + (0 : Fin 4).val ∧ (0x363 : Addr).toNat = 0x360 + (3 : Fin 4).val := by
  simp only [List.forall_mem_cons, List.not_mem_nil, false_implies, implies_true]; decide

/-- `RegisterWritesWhileIdle`, `ByteWritesWhileIdle`: an idle state with canonical memory, the ends of the ranges, and an address
outside the written byte. -/
theorem witness_idle_writes : State.reset.phase = .idle ∧ Memory.wf State.reset.mem ∧
    (∀ a ∈ [(0x100 : Addr), 0x1D4, 0x200, 0x27F],
      (0x100 ≤ a.toNat ∧ a.toNat ≤ 0x1D4) ∨ (0x200 ≤ a.toNat ∧ a.toNat ≤ 0x27F)) ∧ 0x101 ≠ (0x100 : Addr).toNat := by
  simp only [List.forall_mem_cons, List.not_mem_nil, false_implies, implies_true]; decide

/-! ### Witnesses: engine and datapath -/

/-- `MixingStepRunsOneRound`, `FinalStepWritesTheResult`, `EngineStopsPastRounds`: the three cases of RIDX against ROUNDS, the first
also with the last round to go. -/
theorem witness_engine : ((busyFor 1).phase = .mix ∧ (busyFor 1).ridx.toNat < (busyFor 1).rounds.toNat) ∧
    ((busyFor 0xFFFFFFFF).ridx.toNat < (busyFor 0xFFFFFFFF).rounds.toNat) ∧
    (busy.phase = .mix ∧ busy.ridx = busy.rounds ∧ Memory.wf busy.mem) ∧
    (past.phase = .mix ∧ past.rounds.toNat < past.ridx.toNat) ∧ State.reset.phase = .idle := by decide

/-- `RotationMovesBits`: every amount, at the first and the last bit. -/
theorem witness_rotation : ∀ n ∈ [32, 24, 16, 63], n ∈ [32, 24, 16, 63] ∧ (0 : Nat) < 64 ∧ (63 : Nat) < 64 := by decide

/-- `MixingFunctionUpdatesFourLanes`, `CallsOnDisjointLanesCommute`: the lanes of the first and second column call, and a lane
outside them. -/
theorem witness_lanes : [(0 : Fin 16), 4, 8, 12].Nodup ∧ (15 : Fin 16) ∉ [(0 : Fin 16), 4, 8, 12] ∧
    [(0 : Fin 16), 4, 8, 12, 1, 5, 9, 13].Nodup ∧ (15 : Fin 16) ≠ 14 := by decide

/-- `CompressIsTheLoopOfRounds`: a block of 128 bytes, and a round index below the round count. -/
theorem witness_loop : ((List.range 128).map (BitVec.ofNat 8)).length = 128 ∧ 0 < 1 := by simp

/-! ### Witnesses: whole-machine rules -/

/-- An idle state whose host reads STATUS once the compression has started; ROUNDS = 1. -/
def watched (s : State) : State :=
  { s with rounds := 1, turns := [.host, .engine], hostOps := [.access (.regRead 0x008)] }

/-- A busy state that finishes in two engine steps, with one host access before them. -/
theorem finishes_of {u : State} (h1 : u.phase = .mix ∧ u.turn = .host ∧ goesOn (step u) = true)
    (h2 : (after (step u)).phase = .mix ∧ (after (step u)).turn = .engine ∧ goesOn (step (after (step u))) = true)
    (h3 : let w := after (step (after (step u)))
      w.phase = .mix ∧ w.turn = .engine ∧ goesOn (step w) = true ∧ (after (step w)).phase = .idle) :
    Finishes u 2 (after (step (after (step (after (step u)))))) :=
  .host _ _ _ _ h1.1 h1.2.1 (eq_next h1.2.2) <| .round _ _ _ _ h2.1 h2.2.1 (eq_next h2.2.2) <|
    .final _ _ h3.1 h3.2.1 (eq_next h3.2.2.1) h3.2.2.2

/-- `CompressionStepCount`, `CompressionResult` (COMPRESS) and `CompressionFinishes`. -/
theorem witness_compression :
    let s := watched State.reset
    let u := startCompression s
    s.phase = .idle ∧ Memory.wf s.mem ∧ Turn.reset ∉ s.turns ∧ exec .compress s = .next u ∧ u.phase = .mix ∧ u.ridx = 0 ∧
    ∃ t, Finishes u 2 t :=
  ⟨rfl, by decide, by decide, rfl, rfl, rfl, _, finishes_of (by decide +kernel) (by decide +kernel) (by decide +kernel)⟩

/-- The frame of `witness_decode_compression`: ROUNDS = 1, flag 1, all else 0. -/
def oneRoundFrame : State :=
  { watched (framed 213 1) with mem := Memory.write (Memory.write [] 0x1D4 1) 0x103 1 }

/-- `CompressionResult` and `CompressionFinishes` (DECODE_COMPRESS). -/
theorem witness_decode_compression :
    let s := oneRoundFrame
    let u := after (exec .decodeCompress s)
    s.phase = .idle ∧ Memory.wf s.mem ∧ Turn.reset ∉ s.turns ∧ (∃ args, decodeInput s.inbuf s.inLen = .ok args) ∧
    exec .decodeCompress s = .next u ∧ ∃ t, Finishes u 2 t := by
  exact ⟨rfl, by decide, by decide, ⟨_, decodes_of_flag (frame := oneRoundFrame.inbuf) (by decide +kernel)⟩,
    eq_next (by decide +kernel), _, finishes_of (by decide +kernel) (by decide +kernel) (by decide +kernel)⟩

/-- `IdleVectorsAreUnobservable`: two idle states that differ in V, one of which steps; and a busy state beside itself. -/
theorem witness_idle_vectors :
    let s' : State := { State.reset with v := Vector.replicate 16 1 }
    SameButIdleVectors State.reset s' ∧ State.reset ≠ s' ∧ step State.reset = .next State.reset ∧
    SameButIdleVectors busy busy ∧ step busy = .next (after (step busy)) := by
  refine ⟨⟨rfl, fun h => by cases h⟩, by decide, rfl, ⟨rfl, fun _ => ⟨rfl, rfl⟩⟩, eq_next (by decide +kernel)⟩

/-- `ArgumentsFrozenWhileBusy`: a busy host turn that steps. -/
theorem witness_frozen : Memory.wf (hostWrites busy 0x040 1).mem ∧ (hostWrites busy 0x040 1).phase = .mix ∧
    (hostWrites busy 0x040 1).turn ≠ .reset ∧
    step (hostWrites busy 0x040 1) = .next (after (step (hostWrites busy 0x040 1))) :=
  ⟨by decide, rfl, by decide, eq_next (by decide +kernel)⟩

/-- `ResultChangesOnlyAtFinalisation`: a finalisation that changes HOUT. -/
theorem witness_result_changes : Memory.wf busy.mem ∧ step busy = .next (after (step busy)) ∧
    (after (step busy)).hout ≠ busy.hout := ⟨by decide, eq_next (by decide +kernel), by decide +kernel⟩

/-- `PhaseChangesOnlyAsStated`: a command that sets PHASE to MIX, and a finalisation that sets it to IDLE. -/
theorem witness_phase_changes :
    let s := hostWrites State.reset 0x000 0x2
    (step s = .next (after (step s)) ∧ s.phase = .idle ∧ (after (step s)).phase = .mix) ∧
    (step busy = .next (after (step busy)) ∧ busy.phase = .mix ∧ (after (step busy)).phase = .idle) :=
  ⟨⟨eq_next (by decide +kernel), rfl, by decide +kernel⟩, eq_next (by decide +kernel), rfl, by decide +kernel⟩

/-- `InputFrameIsTheHostsAlone`: a write to IN_LEN and a write to INBUF[212]. -/
theorem witness_input_changes :
    let s := hostWrites State.reset 0x010 213
    let u : State := { State.reset with hostOps := [.access (.byteWrite 0x1D4 1)] }
    (Memory.wf s.mem ∧ step s = .next (after (step s)) ∧ (after (step s)).inLen ≠ s.inLen) ∧
    (Memory.wf u.mem ∧ step u = .next (after (step u)) ∧ (after (step u)).inbuf ≠ u.inbuf) :=
  ⟨⟨by decide, eq_next (by decide +kernel), by decide +kernel⟩, by decide, eq_next (by decide +kernel), by decide +kernel⟩

/-- `OverrunSetAndCleared`: OVR set by a dropped register write and by a dropped byte write, kept by an engine step, cleared by a command. -/
theorem witness_overrun :
    let s := hostWrites busy 0x040 1
    let b : State := { busy with turns := [.host], hostOps := [.access (.byteWrite 0x27F 1)] }
    let e : State := { busy with status := { busy := true, ovr := true } }
    let c : State := { hostWrites State.reset 0x000 0x0 with status := { done := true, ovr := true } }
    (step s = .next (after (step s)) ∧ s.status.ovr = false ∧ (after (step s)).status.ovr = true) ∧
    (step b = .next (after (step b)) ∧ b.status.ovr = false ∧ (after (step b)).status.ovr = true) ∧
    (step e = .next (after (step e)) ∧ e.turn = .engine) ∧
    (step c = .next (after (step c)) ∧ c.status.ovr = true ∧ (after (step c)).status.ovr = false) :=
  ⟨⟨eq_next (by decide +kernel), rfl, by decide +kernel⟩, ⟨eq_next (by decide +kernel), rfl, by decide +kernel⟩,
    ⟨eq_next (by decide +kernel), rfl⟩, eq_next (by decide +kernel), rfl,
    by decide +kernel⟩

end Tests
end Sys2Proof.Machine
end

section
/-! Whose turn it is, on a planned and on an empty schedule, and the turns that change nothing. -/

namespace Sys2Proof.Machine
namespace Proofs

variable {s : State} {t : Turn} {ts : List Turn}

/-! ### A planned turn -/

theorem turn_of_turns_cons (h : s.turns = t :: ts) : s.turn = t := by
  simp only [State.turn, h]

theorem afterTurn_of_turns_cons (h : s.turns = t :: ts) : s.afterTurn = { s with turns := ts } := by
  simp only [State.afterTurn, h, List.tail_cons]

theorem step_of_turns_cons (h : s.turns = t :: ts) : step s = runTurn t { s with turns := ts } := by
  rw [step, turn_of_turns_cons h, afterTurn_of_turns_cons h]

/-! ### No planned turn: the model's default order (log 2) -/

theorem turn_of_turns_nil_of_mix (h : s.turns = []) (hp : s.phase = .mix) : s.turn = .engine := by
  simp only [State.turn, h, hp]

theorem turn_of_turns_nil_of_idle (h : s.turns = []) (hp : s.phase = .idle) : s.turn = .host := by
  simp only [State.turn, h, hp]

/-- With no turn planned there is none to use up. -/
theorem afterTurn_of_turns_nil (h : s.turns = []) : s.afterTurn = s := by
  cases s
  cases h
  rfl

theorem step_of_turns_nil_of_mix (h : s.turns = []) (hp : s.phase = .mix) : step s = engineStep s := by
  rw [step, turn_of_turns_nil_of_mix h hp, afterTurn_of_turns_nil h, runTurn]

theorem step_of_turns_nil_of_idle (h : s.turns = []) (hp : s.phase = .idle) : step s = hostStep s := by
  rw [step, turn_of_turns_nil_of_idle h hp, afterTurn_of_turns_nil h, runTurn]

/-! ### Turns that change nothing (R196) -/

theorem hostStep_of_hostOps_nil (h : s.hostOps = []) : hostStep s = .next s := by
  simp only [hostStep, h]

theorem engineStep_of_idle (hp : s.phase = .idle) : engineStep s = .next s := by
  simp only [engineStep, hp]

/-- Settles O29: each clause is the rule for its schedule; the three agents are `runTurn` at each turn. -/
theorem turnsFollowTheSchedule : Obligations.TurnsFollowTheSchedule := by
  refine ⟨?planned, ?engine, ?host, ?reset, ?busy, ?idle, ?noOperation, ?engineIdle⟩
  case planned =>
    exact fun s t ts h => ⟨turn_of_turns_cons h, afterTurn_of_turns_cons h, step_of_turns_cons h⟩
  case engine => exact fun s ts h => step_of_turns_cons h
  case host => exact fun s ts h => step_of_turns_cons h
  case reset => exact fun s ts h => step_of_turns_cons h
  case busy => exact fun s h hp => step_of_turns_nil_of_mix h hp
  case idle => exact fun s h hp => step_of_turns_nil_of_idle h hp
  case noOperation => exact fun s h => hostStep_of_hostOps_nil h
  case engineIdle => exact fun s hp => engineStep_of_idle hp

end Proofs
end Sys2Proof.Machine
end

section
/-! What one step can do, on the state in which only the outside of CORE has moved on, and what an access can
change while idle. -/

namespace Sys2Proof.Machine
namespace Proofs

open Sys2Proof.Machine.Laws

/-! ### A step, less the bookkeeping of the outside -/

/-- The state with the host's plans, the recorded answer and the planned turns replaced: no item of R20 changes. -/
def withOutside (s : State) (ops : List HostOp) (r : Option Response) (ts : List Turn) : State :=
  { s with hostOps := ops, response := r, turns := ts }

/-- What a step from `s` does to `u`, which is `s` with its outside moved on. -/
inductive StepOn (s u : State) : State → Prop where
  | outside : StepOn s u u
  | reset (turn : s.turn = .reset) : StepOn s u (resetEvent u)
  | round (turn : s.turn = .engine) (busy : u.phase = .mix) (more : u.ridx < u.rounds) : StepOn s u (mixStep u)
  | final (turn : s.turn = .engine) (busy : u.phase = .mix) (last : u.ridx = u.rounds) : StepOn s u (finalStep u)
  | dropped (a : Access) (rest : List HostOp) (turn : s.turn = .host) (busy : u.phase = .mix)
      (op : s.hostOps = .access a :: rest) (write : Droppable a) : StepOn s u (dropWrite u)
  | landed (t : State) (a : Access) (rest : List HostOp) (turn : s.turn = .host) (idle : u.phase = .idle)
      (op : s.hostOps = .access a :: rest) (effect : IdleEffect a u t) : StepOn s u t

/-- The six things a step can do. -/
theorem exists_stepOn_of_step {s t : State} (h : step s = .next t) :
    ∃ ops r ts, StepOn s (withOutside s ops r ts) t := by
  rcases step_cases h with ⟨turn, rfl⟩ | ⟨-, -, rfl⟩ | ⟨turn, busy, more, rfl⟩ | ⟨turn, busy, last, rfl⟩ | ⟨-, rfl⟩ |
    ⟨-, ops, r, rfl⟩ | ⟨turn, busy, a, ops, r, op, write, rfl⟩ | ⟨turn, idle, a, ops, r, op, effect⟩
  · exact ⟨s.hostOps, s.response, s.turns.tail, .reset turn⟩
  · exact ⟨s.hostOps, s.response, s.turns.tail, .outside⟩
  · exact ⟨s.hostOps, s.response, s.turns.tail, .round turn busy more⟩
  · exact ⟨s.hostOps, s.response, s.turns.tail, .final turn busy last⟩
  · exact ⟨s.hostOps, s.response, s.turns.tail, .outside⟩
  · exact ⟨ops, some r, s.turns.tail, .outside⟩
  · exact ⟨ops, some r, s.turns.tail, .dropped a ops turn busy op write⟩
  · exact ⟨ops, some r, s.turns.tail, .landed t a ops turn idle op effect⟩

/-! ### What a legal command word is -/

/-- A word decodes to no command but the one it encodes (R89). -/
theorem eq_encode_of_decodeCommand {c : Word} {i : Instr} (h : decodeCommand c = some i) : c = encode i := by
  unfold decodeCommand at h
  split at h
  case isFalse => cases h
  case isTrue reserved =>
    have opcodeValue : ∀ n : Nat, (c.extractLsb' 0 8).toNat = n → c = BitVec.ofNat 64 n := by
      intro n hn
      have hr := congrArg BitVec.toNat reserved
      have hc := c.isLt
      apply BitVec.eq_of_toNat_eq
      simp only [BitVec.extractLsb'_toNat, BitVec.toNat_ofNat, Nat.shiftRight_eq_div_pow]
        at hr hn ⊢
      omega
    split at h <;> cases h <;> exact opcodeValue _ ‹_›

/-! ### What an accepted command can do -/

/-- CLEAR; a decode's error report; DECODE; and the two ways to start a compression. -/
theorem effectOf_cases (i : Instr) (s : State) :
    effectOf i s = s.setStatus Status.clear ∨
    (∃ e, e ≠ .invalidLength ∧ effectOf i s = raiseError e s) ∨
    (∃ args : Arguments, args.block.length = 128 ∧ effectOf i s = finishDecode (writeArguments args s)) ∨
    (i = .compress ∧ effectOf i s = startCompression s) ∨
    (i = .decodeCompress ∧ ∃ args : Arguments, args.block.length = 128 ∧
      effectOf i s = startCompression (writeArguments args s)) := by
  have reported {e : Error} (he : e = .invalidInputLength ∨ e = .invalidFinalFlag) : e ≠ .invalidLength := by
    rcases he with rfl | rfl <;> decide
  cases i with
  | clear => exact .inl rfl
  | compress => exact .inr (.inr (.inr (.inl ⟨rfl, rfl⟩)))
  | decode =>
    rcases decodeThen_cases finishDecode s with ⟨e, he, -, h⟩ | ⟨args, hb, -, h⟩
    · exact .inr (.inl ⟨e, reported he, h⟩)
    · exact .inr (.inr (.inl ⟨args, hb, h⟩))
  | decodeCompress =>
    rcases decodeThen_cases startCompression s with ⟨e, he, -, h⟩ | ⟨args, hb, -, h⟩
    · exact .inr (.inl ⟨e, reported he, h⟩)
    · exact .inr (.inr (.inr (.inr ⟨rfl, args, hb, h⟩)))

/-- No command writes HOUT or IN_LEN in its acceptance step. -/
theorem hout_and_inLen_of_effectOf (i : Instr) (s : State) :
    (effectOf i s).hout = s.hout ∧ (effectOf i s).inLen = s.inLen := by
  rcases effectOf_cases i s with h | ⟨e, -, h⟩ | ⟨args, -, h⟩ | ⟨-, h⟩ | ⟨-, args, -, h⟩ <;> rw [h] <;> exact ⟨rfl, rfl⟩

/-! ### What an access can change while idle -/

section IdleEffect

variable {a : Access} {s t : State}

/-- While idle an access writes no memory, one byte of INBUF or BLOCK that it names, or a whole BLOCK. -/
theorem mem_of_idleEffect (h : IdleEffect a s t) :
    t.mem = s.mem ∨
    (∃ p b, a = .byteWrite p b ∧ ((0x100 ≤ p.toNat ∧ p.toNat ≤ 0x1D4) ∨ (0x200 ≤ p.toNat ∧ p.toNat ≤ 0x27F)) ∧
      t.mem = Memory.write s.mem p.toNat b) ∨
    ∃ bs : List Byte, bs.length = 128 ∧ t.mem = Memory.store s.mem 0x200 bs := by
  cases h with
  | inLen | rounds | fflag | t | h | illegal => exact .inl rfl
  | inbuf s p k b hp => exact .inr (.inl ⟨p, b, rfl, by omega, by rw [hp, setByte_mem]⟩)
  | block s p k b hp => exact .inr (.inl ⟨p, b, rfl, by omega, by rw [hp, setByte_mem]⟩)
  | command s c i =>
    rcases effectOf_cases i s with h | ⟨e, -, h⟩ | ⟨args, hb, h⟩ | ⟨-, h⟩ | ⟨-, args, hb, h⟩ <;> rw [h]
    · exact .inl rfl
    · exact .inl rfl
    · exact .inr (.inr ⟨args.block, hb, by simp⟩)
    · exact .inl rfl
    · exact .inr (.inr ⟨args.block, hb, by simp⟩)

/-- While idle an access keeps PHASE, with STATUS as it was, cleared, finished or an error report; or it is one of the two
command words that start a compression. -/
theorem control_of_idleEffect (h : IdleEffect a s t) :
    (t.phase = s.phase ∧ (t.status = s.status ∨ t.status = Status.clear ∨ t.status = Status.finished ∨
      ∃ e, e ≠ .invalidLength ∧ t.status = Status.failed e)) ∨
    ((a = .regWrite 0x000 0x2 ∨ a = .regWrite 0x000 0x3) ∧ ∃ u, t = startCompression u) := by
  cases h with
  | inLen | rounds | fflag | t | h | inbuf | block => exact .inl ⟨rfl, .inl rfl⟩
  | illegal s c hd => exact .inl ⟨rfl, .inr (.inr (.inr ⟨.illegalCommand, by decide, rfl⟩))⟩
  | command s c i hd =>
    obtain rfl := eq_encode_of_decodeCommand hd
    rcases effectOf_cases i s with h | ⟨e, he, h⟩ | ⟨args, -, h⟩ | ⟨rfl, h⟩ | ⟨rfl, args, -, h⟩ <;> rw [h]
    · exact .inl ⟨rfl, .inr (.inl rfl)⟩
    · exact .inl ⟨rfl, .inr (.inr (.inr ⟨e, he, rfl⟩))⟩
    · exact .inl ⟨rfl, .inr (.inr (.inl rfl))⟩
    · exact .inr ⟨.inl rfl, s, rfl⟩
    · exact .inr ⟨.inr rfl, _, rfl⟩

theorem hout_of_idleEffect (h : IdleEffect a s t) : t.hout = s.hout := by
  cases h with
  | inLen | rounds | fflag | t | h | inbuf | block | illegal => rfl
  | command s c i => exact (hout_and_inLen_of_effectOf i s).left

theorem inLen_of_idleEffect (h : IdleEffect a s t) : t.inLen = s.inLen ∨ ∃ v, a = .regWrite 0x010 v := by
  cases h with
  | inLen s v => exact .inr ⟨v, rfl⟩
  | rounds | fflag | t | h | inbuf | block | illegal => exact .inl rfl
  | command s c i => exact .inl (hout_and_inLen_of_effectOf i s).right

theorem wf_of_idleEffect (h : IdleEffect a s t) (hw : Memory.wf s.mem) : Memory.wf t.mem := by
  rcases mem_of_idleEffect h with h | ⟨p, b, -, hp, h⟩ | ⟨bs, hl, h⟩ <;> rw [h]
  · exact hw
  · exact wf_write _ _ hw (by unfold Memory.InBuffers; omega)
  · exact wf_store _ _ hw (block_inBuffers hl)

theorem outbuf_of_idleEffect (h : IdleEffect a s t) (hw : Memory.wf s.mem) : t.outbuf = s.outbuf := by
  unfold State.outbuf
  rcases mem_of_idleEffect h with h | ⟨p, b, -, hp, h⟩ | ⟨bs, hl, h⟩ <;> rw [h]
  · exact load_write_other _ _ hw _ _ (by omega)
  · exact load_store_other _ _ hw (block_inBuffers hl) _ _ (by omega)

theorem inbuf_of_idleEffect (h : IdleEffect a s t) (hw : Memory.wf s.mem) :
    t.inbuf = s.inbuf ∨ ∃ p b, a = .byteWrite p b ∧ 0x100 ≤ p.toNat ∧ p.toNat ≤ 0x1D4 := by
  unfold State.inbuf
  rcases mem_of_idleEffect h with h | ⟨p, b, ha, hp | hp, h⟩ | ⟨bs, hl, h⟩ <;> rw [h]
  · exact .inl rfl
  · exact .inr ⟨p, b, ha, hp⟩
  · exact .inl (load_write_other _ _ hw _ _ (by omega))
  · exact .inl (load_store_other _ _ hw (block_inBuffers hl) _ _ (by omega))

end IdleEffect

end Proofs
end Sys2Proof.Machine
end

section
/-! What a step keeps: STATUS and PHASE, the result registers, the input frame, the running compression; the
invariant of CORE. -/

namespace Sys2Proof.Machine
namespace Proofs

open Sys2Proof.Machine.Laws

variable {a : Access} {s t u : State}

/-! ### STATUS (R29, R39) -/

/-- Every field of the STATUS value, by the error code and then over the four flags. -/
theorem statusWord_fields (st : Status) :
    st.word.getLsbD 0 = st.busy ∧ st.word.getLsbD 1 = st.done ∧ st.word.getLsbD 2 = st.err ∧
    st.word.getLsbD 3 = st.ovr ∧ st.word.extractLsb' 4 4 = 0 ∧ (st.word.extractLsb' 8 4).toNat = st.code ∧
    st.word.extractLsb' 12 52 = 0 := by
  obtain ⟨busy, done, err, ovr, errcode⟩ := st
  revert busy done err ovr
  rcases errcode with _ | _ | _ | _ | _ <;> decide

theorem consistent_failed {e : Error} (he : e ≠ .invalidLength) : (Status.failed e).Consistent .idle := by
  cases e with
  | invalidLength => exact absurd rfl he
  | invalidInputLength | invalidFinalFlag | illegalCommand => decide

theorem consistent_finalised (st : Status) : st.finalised.Consistent .idle := by
  simp [Status.finalised, Status.Consistent, Status.code]

theorem consistent_of_idleEffect (h : IdleEffect a s t) (hs : s.status.Consistent s.phase) (idle : s.phase = .idle) :
    t.status.Consistent t.phase := by
  rcases control_of_idleEffect h with ⟨hp, e | e | e | ⟨err, he, e⟩⟩ | ⟨-, u, rfl⟩
  · rw [e, hp]; exact hs
  · rw [e, hp, idle]; decide
  · rw [e, hp, idle]; decide
  · rw [e, hp, idle]; exact consistent_failed he
  · rw [startCompression_status, startCompression_phase]; decide

theorem consistent_of_stepOn (h : StepOn s u t) (hu : u.status.Consistent u.phase) : t.status.Consistent t.phase := by
  cases h with
  | outside => exact hu
  | reset => rw [resetEvent_status, resetEvent_phase]; decide
  | round => exact hu
  | final => exact consistent_finalised u.status
  | dropped => exact hu
  | landed t a rest turn idle op effect => exact consistent_of_idleEffect effect hu idle

/-- Settles O6: the fields are read off the value; each of the six things a step can do keeps the invariants. -/
theorem statusFieldsAndInvariants : Obligations.StatusFieldsAndInvariants := by
  refine ⟨statusWord_fields, rfl, by decide, fun s t hs h => ?_⟩
  obtain ⟨ops, r, ts, h⟩ := exists_stepOn_of_step h
  exact consistent_of_stepOn h hs

/-! ### Memory and the result (R30, R31) -/

theorem wf_of_stepOn (h : StepOn s u t) (hw : Memory.wf u.mem) : Memory.wf t.mem := by
  cases h with
  | outside | round | dropped => exact hw
  | reset => exact wf_nil
  | final => exact wf_finalStep hw
  | landed t a rest turn idle op effect => exact wf_of_idleEffect effect hw

/-- A step is a reset, the finalisation, or keeps HOUT and OUTBUF. -/
theorem result_of_stepOn (h : StepOn s u t) (hw : Memory.wf u.mem) :
    (s.turn = .reset ∧ t = resetEvent u) ∨
    (s.turn = .engine ∧ u.phase = .mix ∧ u.ridx = u.rounds ∧ t = finalStep u) ∨
    (t.hout = u.hout ∧ t.outbuf = u.outbuf) := by
  cases h with
  | outside | round | dropped => exact .inr (.inr ⟨rfl, rfl⟩)
  | reset turn => exact .inl ⟨turn, rfl⟩
  | final turn busy last => exact .inr (.inl ⟨turn, busy, last, rfl⟩)
  | landed t a rest turn idle op effect =>
    exact .inr (.inr ⟨hout_of_idleEffect effect, outbuf_of_idleEffect effect hw⟩)

/-- Settles O53: a step that is neither keeps both. -/
theorem resultChangesOnlyAtFinalisation : Obligations.ResultChangesOnlyAtFinalisation := by
  intro s t hw h changed
  obtain ⟨ops, r, ts, h⟩ := exists_stepOn_of_step h
  rcases result_of_stepOn h hw with ⟨turn, -⟩ | ⟨turn, busy, last, -⟩ | ⟨hh, ho⟩
  · exact .inl turn
  · exact .inr ⟨turn, busy, last⟩
  · exact (changed.elim (· hh) (· ho)).elim

/-- OUTBUF and HOUT are both 0 in every byte after reset. -/
theorem outbufMatches_of_reset (hm : s.mem = []) (hh : s.hout = Vector.replicate 8 0) : s.OutbufMatches := by
  rw [State.OutbufMatches, State.outbuf, hm, hh]
  decide +kernel

theorem outbufMatches_of_stepOn (h : StepOn s u t) (hw : Memory.wf u.mem) (hu : u.OutbufMatches) : t.OutbufMatches := by
  rcases result_of_stepOn h hw with ⟨-, rfl⟩ | ⟨-, -, -, rfl⟩ | ⟨hh, ho⟩
  · exact outbufMatches_of_reset (resetEvent_mem u) (resetEvent_hout u)
  · exact (buffers_finalStep hw).1
  · rw [State.OutbufMatches, hh, ho]; exact hu

/-! ### The running compression (R37, R38, R131) -/

theorem mixOnCourse_startCompression (s : State) : (startCompression s).MixOnCourse := by
  intro _
  exact ⟨Nat.zero_le s.rounds.toNat, rfl, rfl⟩

/-- One mixing step is the next turn of the loop of R131. -/
theorem mixOnCourse_mixStep (busy : s.phase = .mix) (more : s.ridx < s.rounds) (hs : s.MixOnCourse) :
    (mixStep s).MixOnCourse := by
  intro _
  obtain ⟨-, hmw, hv⟩ := hs busy
  have next : (s.ridx + 1).toNat = s.ridx.toNat + 1 := by bv_omega
  have hmw' : (mixStep s).mw = messageWords (mixStep s).block := hmw
  refine ⟨?_, hmw', ?_⟩
  · rw [mixStep_ridx, mixStep_rounds]; bv_omega
  · rw [← hmw', mixStep_v, mixStep_ridx, next, hv, ← hmw]
    rfl

theorem mixOnCourse_of_idle (idle : s.phase = .idle) : s.MixOnCourse := by
  intro busy
  rw [idle] at busy
  cases busy

theorem mixOnCourse_of_stepOn (h : StepOn s u t) (hu : u.MixOnCourse) : t.MixOnCourse := by
  cases h with
  | outside | dropped => exact hu
  | reset => exact mixOnCourse_of_idle (resetEvent_phase u)
  | round turn busy more => exact mixOnCourse_mixStep busy more hu
  | final => exact mixOnCourse_of_idle (finalStep_phase u)
  | landed t a rest turn idle op effect =>
    rcases control_of_idleEffect effect with ⟨hp, -⟩ | ⟨-, v, rfl⟩
    · exact mixOnCourse_of_idle (hp.trans idle)
    · exact mixOnCourse_startCompression v

/-! ### The invariant of CORE -/

/-- Settles O4: each part of the invariant is kept by the six things a step can do. -/
theorem stepKeepsInvariant : Obligations.StepKeepsInvariant := by
  rintro s t ⟨hw, hstatus, hout, hmix⟩ h
  obtain ⟨ops, r, ts, h⟩ := exists_stepOn_of_step h
  exact ⟨wf_of_stepOn h hw, consistent_of_stepOn h hstatus, outbufMatches_of_stepOn h hw hout,
    mixOnCourse_of_stepOn h hmix⟩

/-- Settles O3: no byte is named, STATUS is 0, HOUT and OUTBUF are 0, and nothing runs. -/
theorem invariantHoldsAtReset : Obligations.InvariantHoldsAtReset :=
  ⟨wf_nil, by decide, outbufMatches_of_reset rfl rfl, mixOnCourse_of_idle rfl⟩

/-! ### Who may change PHASE, the arguments and the input frame -/

/-- Settles O54: PHASE leaves IDLE in an idle effect alone, and leaves MIX in a finalisation or a reset alone. -/
theorem phaseChangesOnlyAsStated : Obligations.PhaseChangesOnlyAsStated := by
  intro s t h
  obtain ⟨ops, r, ts, h⟩ := exists_stepOn_of_step h
  cases h with
  | outside | round | dropped =>
    exact ⟨fun hs ht => (nomatch hs.symm.trans ht), fun hs ht => (nomatch hs.symm.trans ht)⟩
  | reset turn => exact ⟨fun _ ht => (nomatch ht), fun _ _ => .inl turn⟩
  | final turn busy last => exact ⟨fun hs _ => (nomatch hs.symm.trans busy), fun _ _ => .inr ⟨turn, last⟩⟩
  | landed t a rest turn idle op effect =>
    refine ⟨fun _ ht => ⟨turn, rest, ?_⟩, fun hs => (nomatch hs.symm.trans idle)⟩
    rcases control_of_idleEffect effect with ⟨hp, -⟩ | ⟨ha, -⟩
    · exact nomatch (hp.trans idle).symm.trans ht
    · exact ha.imp (by rintro rfl; exact op) (by rintro rfl; exact op)

/-- Settles O52: a busy machine whose turn is no reset goes through a round, the finalisation or a dropped write. -/
theorem argumentsFrozenWhileBusy : Obligations.ArgumentsFrozenWhileBusy := by
  intro s t hw busy noReset h
  obtain ⟨ops, r, ts, h⟩ := exists_stepOn_of_step h
  cases h with
  | outside | round | dropped => exact ⟨rfl, rfl, rfl, rfl, rfl, rfl, rfl⟩
  | reset turn => exact absurd turn noReset
  | final =>
    obtain ⟨-, hblock, hinbuf⟩ := buffers_finalStep (s := withOutside s ops r ts) hw
    exact ⟨rfl, rfl, hblock, rfl, rfl, rfl, hinbuf⟩
  | landed t a rest turn idle => exact absurd (busy.symm.trans idle) (by decide)

/-- Settles O55: of what a step can do only a reset, and a write that lands in an idle machine, reach the input frame. -/
theorem inputFrameIsTheHostsAlone : Obligations.InputFrameIsTheHostsAlone := by
  intro s t hw h
  obtain ⟨ops, r, ts, h⟩ := exists_stepOn_of_step h
  cases h with
  | outside | round | dropped => exact ⟨fun c => absurd rfl c, fun c => absurd rfl c⟩
  | reset turn => exact ⟨fun _ => .inl turn, fun _ => .inl turn⟩
  | final =>
    obtain ⟨-, -, hinbuf⟩ := buffers_finalStep (s := withOutside s ops r ts) hw
    exact ⟨fun c => absurd rfl c, fun c => absurd hinbuf c⟩
  | landed t a rest turn idle op effect =>
    refine ⟨fun changed => .inr ⟨turn, idle, ?_⟩, fun changed => .inr ⟨turn, idle, ?_⟩⟩
    · rcases inLen_of_idleEffect effect with e | ⟨v, rfl⟩
      · exact absurd e changed
      · exact ⟨v, rest, op⟩
    · rcases inbuf_of_idleEffect effect hw with e | ⟨p, b, rfl, low, high⟩
      · exact absurd e changed
      · exact ⟨p, b, rest, low, high, op⟩

end Proofs
end Sys2Proof.Machine
end

section
/-! What V and MW hold while idle reaches no step: every part of a step gives the same answer and the same next
state but for them. -/

namespace Sys2Proof.Machine
namespace Proofs

open Sys2Proof.Machine.Laws

variable {s s' : State} {v w : Words16}

/-! ### States that differ in V and MW alone -/

/-- The state with V and MW replaced. -/
def withVectors (s : State) (v w : Words16) : State := { s with v := v, mw := w }

theorem sameButIdleVectors_refl (s : State) : SameButIdleVectors s s := ⟨rfl, fun _ => ⟨rfl, rfl⟩⟩

theorem sameButIdleVectors_withVectors (idle : s.phase = .idle) : SameButIdleVectors s (withVectors s v w) :=
  ⟨rfl, fun busy => nomatch idle.symm.trans busy⟩

/-- The other state is this one while busy, and this one with some V and MW while idle. -/
theorem eq_or_withVectors_of_sameButIdleVectors (h : SameButIdleVectors s s') :
    s' = s ∨ (s.phase = .idle ∧ s' = withVectors s s'.v s'.mw) := by
  obtain ⟨agree, whileBusy⟩ := h
  cases hp : s.phase with
  | idle => exact .inr ⟨rfl, agree.symm⟩
  | mix =>
    obtain ⟨hv, hmw⟩ := whileBusy hp
    rw [← hv, ← hmw] at agree
    exact .inl agree.symm

/-- The update of an idle state does not tell such states apart. -/
def IgnoresIdleVectors (f : State → State) : Prop :=
  ∀ (s : State) (v w : Words16), s.phase = .idle → SameButIdleVectors (f s) (f (withVectors s v w))

/-- If the first outcome goes on, so does the second, to such a state. -/
def GoOnAlike (o o' : Host.Outcome State Fault Refusal) : Prop :=
  ∀ t, o = .next t → ∃ t', o' = .next t' ∧ SameButIdleVectors t t'

theorem goOnAlike_next (h : SameButIdleVectors s s') : GoOnAlike (.next s) (.next s') := by
  rintro _ ⟨⟩
  exact ⟨s', rfl, h⟩

/-! ### What an access reads -/

theorem readReg_withVectors (r : Reg) : readReg r (withVectors s v w) = readReg r s := by
  cases r <;> rfl

theorem readByte_withVectors (b : ByteItem) : readByte b (withVectors s v w) = readByte b s := by
  cases b <;> rfl

theorem busResponse_withVectors (a : Access) : busResponse a (withVectors s v w) = busResponse a s := by
  cases a <;> simp only [busResponse, readReg_withVectors, readByte_withVectors]

/-! ### What an access does -/

/-- An update that keeps PHASE and passes V and MW on. -/
theorem ignoresIdleVectors_of_commutes {f : State → State} (keepsPhase : ∀ s, (f s).phase = s.phase)
    (commutes : ∀ s v w, f (withVectors s v w) = withVectors (f s) v w) : IgnoresIdleVectors f := by
  intro s v w idle
  rw [commutes]
  exact sameButIdleVectors_withVectors ((keepsPhase s).trans idle)

/-- COMPRESS writes both vectors whole. -/
theorem ignoresIdleVectors_startCompression : IgnoresIdleVectors startCompression :=
  fun s _ _ _ => sameButIdleVectors_refl (startCompression s)

theorem ignoresIdleVectors_finishDecode : IgnoresIdleVectors finishDecode :=
  ignoresIdleVectors_of_commutes (fun _ => rfl) (fun _ _ _ => rfl)

theorem ignoresIdleVectors_raiseError (e : Error) : IgnoresIdleVectors (raiseError e) :=
  ignoresIdleVectors_of_commutes (fun _ => rfl) (fun _ _ _ => rfl)

/-- The decode itself reads INBUF and IN_LEN alone. -/
theorem ignoresIdleVectors_decodeThen {after : State → State} (h : IgnoresIdleVectors after) :
    IgnoresIdleVectors (decodeThen after) := by
  intro s v w idle
  have same : decodeInput (withVectors s v w).inbuf (withVectors s v w).inLen = decodeInput s.inbuf s.inLen := rfl
  cases hd : decodeInput s.inbuf s.inLen with
  | error e =>
    simp only [decodeThen, same, hd]
    exact ignoresIdleVectors_raiseError e s v w idle
  | ok args =>
    simp only [decodeThen, same, hd]
    exact h (writeArguments args s) v w idle

theorem ignoresIdleVectors_effectOf (i : Instr) : IgnoresIdleVectors (effectOf i) := by
  cases i with
  | clear => exact ignoresIdleVectors_of_commutes (fun _ => rfl) (fun _ _ _ => rfl)
  | decode => exact ignoresIdleVectors_decodeThen ignoresIdleVectors_finishDecode
  | compress => exact ignoresIdleVectors_startCompression
  | decodeCompress => exact ignoresIdleVectors_decodeThen ignoresIdleVectors_startCompression

theorem goOnAlike_writeItem {f : State → State} (h : IgnoresIdleVectors f) (idle : s.phase = .idle) :
    GoOnAlike (writeItem f s) (writeItem f (withVectors s v w)) := by
  rw [writeItem_idle idle, writeItem_idle (s := withVectors s v w) idle]
  exact goOnAlike_next (h s v w idle)

/-- A write to one register or byte keeps PHASE and passes V and MW on. -/
theorem goOnAlike_writeItem_of_commutes {f : State → State} (idle : s.phase = .idle)
    (keepsPhase : ∀ s, (f s).phase = s.phase) (commutes : ∀ s v w, f (withVectors s v w) = withVectors (f s) v w) :
    GoOnAlike (writeItem f s) (writeItem f (withVectors s v w)) :=
  goOnAlike_writeItem (ignoresIdleVectors_of_commutes keepsPhase commutes) idle

theorem goOnAlike_writeCommand (c : Word) (idle : s.phase = .idle) :
    GoOnAlike (writeCommand c s) (writeCommand c (withVectors s v w)) := by
  cases hd : decodeCommand c with
  | none =>
    rw [writeCommand_illegal idle hd, writeCommand_illegal (s := withVectors s v w) idle hd]
    exact goOnAlike_next (ignoresIdleVectors_raiseError _ s v w idle)
  | some i =>
    rw [writeCommand_legal hd, writeCommand_legal hd, exec_eq, exec_eq, acceptCommand_idle idle,
      acceptCommand_idle (s := withVectors s v w) idle]
    exact goOnAlike_next (ignoresIdleVectors_effectOf i s v w idle)

theorem goOnAlike_writeReg (r : Reg) (x : Word) (idle : s.phase = .idle) :
    GoOnAlike (writeReg r x s) (writeReg r x (withVectors s v w)) := by
  cases r with
  | cmd => exact goOnAlike_writeCommand x idle
  | inLen | rounds | fflag | t | h =>
    exact goOnAlike_writeItem_of_commutes idle (fun _ => rfl) (fun _ _ _ => rfl)
  | status | ridx | hout | iv => exact goOnAlike_next (sameButIdleVectors_withVectors idle)

theorem goOnAlike_writeByte (item : ByteItem) (b : Byte) (idle : s.phase = .idle) :
    GoOnAlike (writeByte item b s) (writeByte item b (withVectors s v w)) := by
  cases item with
  | inbuf | block => exact goOnAlike_writeItem_of_commutes idle (fun _ => rfl) (fun _ _ _ => rfl)
  | outbuf | sigma | rot => exact goOnAlike_next (sameButIdleVectors_withVectors idle)

theorem goOnAlike_busEffect (a : Access) (idle : s.phase = .idle) :
    GoOnAlike (busEffect a s) (busEffect a (withVectors s v w)) := by
  have nothing : GoOnAlike (.next s) (.next (withVectors s v w)) :=
    goOnAlike_next (sameButIdleVectors_withVectors idle)
  cases a with
  | regRead | byteRead => exact nothing
  | regWrite p x =>
    simp only [busEffect]
    cases regAt p with
    | none => exact nothing
    | some r => exact goOnAlike_writeReg r x idle
  | byteWrite p b =>
    simp only [busEffect]
    cases byteAt p with
    | none => exact nothing
    | some item => exact goOnAlike_writeByte item b idle

/-! ### A turn -/

theorem goOnAlike_hostAccess (a : Access) (idle : s.phase = .idle) :
    GoOnAlike (hostAccess a s) (hostAccess a (withVectors s v w)) := by
  rw [hostAccess, hostAccess, busResponse_withVectors]
  exact goOnAlike_busEffect (s := s.answered (busResponse a s)) a idle

theorem goOnAlike_hostStep (idle : s.phase = .idle) : GoOnAlike (hostStep s) (hostStep (withVectors s v w)) := by
  have sameOps : (withVectors s v w).hostOps = s.hostOps := rfl
  have samePoll : pollEnds (withVectors s v w) = pollEnds s := rfl
  unfold hostStep
  rw [sameOps, samePoll]
  cases s.hostOps with
  | nil => exact goOnAlike_next (sameButIdleVectors_withVectors idle)
  | cons op rest =>
    cases op with
    | access a => exact goOnAlike_hostAccess (s := s.planned rest) a idle
    | poll => exact goOnAlike_hostAccess (s := s.planned (if pollEnds s then rest else .poll :: rest)) pollAccess idle

theorem goOnAlike_runTurn (t : Turn) (idle : s.phase = .idle) :
    GoOnAlike (runTurn t s) (runTurn t (withVectors s v w)) := by
  cases t with
  | host => exact goOnAlike_hostStep idle
  | engine =>
    rw [runTurn, runTurn, engineStep_of_idle idle, engineStep_of_idle (s := withVectors s v w) idle]
    exact goOnAlike_next (sameButIdleVectors_withVectors idle)
  | reset => exact goOnAlike_next (sameButIdleVectors_refl (resetEvent s))

/-- Settles O51: while busy the two states are one; while idle the turn is the same and goes on alike. -/
theorem idleVectorsAreUnobservable : Obligations.IdleVectorsAreUnobservable := by
  intro s s' t same h
  rcases eq_or_withVectors_of_sameButIdleVectors same with rfl | ⟨idle, e⟩
  · exact ⟨t, h, sameButIdleVectors_refl t⟩
  · rw [e]
    exact goOnAlike_runTurn (s := s.afterTurn) s.turn idle t h

end Proofs
end Sys2Proof.Machine
end

section
/-! The ROMs and the schedule made of them, the registers and bytes that no write reaches, and the reset values. -/

namespace Sys2Proof.Machine
namespace Proofs

open Sys2Proof.Machine.Laws

/-! ### The round schedule (R124 to R126) -/

/-- No row of SIGMA names a message Word twice (R33). -/
theorem sigma_injective : ∀ r : Fin 10, Function.Injective fun j : Fin 16 => Rom.sigma[r][j] := by
  unfold Function.Injective
  decide +kernel

/-- A row that names no Word twice names each of the 16 once. -/
theorem existsUnique_sigmaRow (i : Nat) (k : Fin 16) : ∃! j : Fin 16, (sigmaRow i)[j] = k :=
  (Finite.injective_iff_bijective.mp (sigma_injective ⟨i % 10, Nat.mod_lt i (by decide)⟩)).existsUnique k

theorem sigmaRow_congr {i j : Nat} (h : i % 10 = j % 10) : sigmaRow i = sigmaRow j := by
  simp only [sigmaRow, h]

theorem sigmaRow_of_lt (j : Fin 10) : sigmaRow j.val = Rom.sigma[j] := by
  simp only [sigmaRow, Nat.mod_eq_of_lt j.isLt]
  rfl

/-- Settles O47: the index enters a round through its row alone, and the row through the index mod 10. -/
theorem scheduleIsPeriodicPermutations : Obligations.ScheduleIsPeriodicPermutations := by
  refine ⟨existsUnique_sigmaRow, fun q j => ?_, fun v m i => ?_, fun v m i => ?_⟩
  · rw [← sigmaRow_of_lt]
    exact sigmaRow_congr (by omega)
  · rw [mixRound, mixRound, sigmaRow_congr (by omega : (i + 10) % 10 = i % 10)]
  · rw [mixRound]
    rfl

/-! ### Writes to what is read only (R57) -/

/-- A register is found at its own address. -/
theorem regAt_addr (r : Reg) : regAt r.addr = some r := by
  have slot : regSlot (slotOf r) = some r := by
    cases r with
    | cmd | status | inLen | rounds | fflag | ridx => rfl
    | t k | h k | hout k | iv k => revert k; decide
  rw [regAt, toNat_addr, if_pos (Nat.mul_mod_right 8 _), Nat.mul_div_cancel_left _ (by decide), slot]

/-- A byte item is found at its own address. -/
theorem byteAt_addr (b : ByteItem) : byteAt b.addr = some b := by
  have range : b.addrNat < 2 ^ 12 := by cases b <;> simp only [ByteItem.addrNat] <;> omega
  have number : b.addr.toNat = b.addrNat := by rw [ByteItem.addr, BitVec.toNat_ofNat, Nat.mod_eq_of_lt range]
  rw [byteAt, number]
  cases b with
  | inbuf k | block k | outbuf k | rot k => revert k; decide +kernel
  | sigma r j => revert r j; decide +kernel

variable {s : State}

theorem hostAccess_regWrite_of_readOnly {p : Addr} {r : Reg} (v : Word) (hr : regAt p = some r)
    (hw : r.writable = false) : hostAccess (.regWrite p v) s = .next (s.answered .busError) := by
  have effect : ∀ u, writeReg r v u = .next u := by
    cases r with
    | status | ridx | hout | iv => exact fun _ => rfl
    | cmd | inLen | rounds | fflag | t | h => cases hw
  simp [hostAccess, busResponse, busEffect, hr, hw, effect]

theorem hostAccess_byteWrite_of_readOnly {p : Addr} {x : ByteItem} (b : Byte) (hx : byteAt p = some x)
    (hw : x.writable = false) : hostAccess (.byteWrite p b) s = .next (s.answered .busError) := by
  have effect : ∀ u, writeByte x b u = .next u := by
    cases x with
    | outbuf | sigma | rot => exact fun _ => rfl
    | inbuf | block => cases hw
  simp [hostAccess, busResponse, busEffect, hx, hw, effect]

/-- Settles O38: the tables are the constants, compared entry by entry; their addresses are those of read-only items. -/
theorem romsReadAsTablesAndNeverChange : Obligations.RomsReadAsTablesAndNeverChange := by
  intro s
  refine ⟨?_, ?_, ?_, fun k v => ?_, fun r j b => ?_, fun k b => ?_⟩
  · simp only [readReg]; decide +kernel
  · simp only [readByte]; decide +kernel
  · simp only [readByte]; decide +kernel
  · exact hostAccess_regWrite_of_readOnly v (regAt_addr (.iv k)) rfl
  · exact hostAccess_byteWrite_of_readOnly b (byteAt_addr (.sigma r j)) rfl
  · exact hostAccess_byteWrite_of_readOnly b (byteAt_addr (.rot k)) rfl

/-! ### The reset values (R40) -/

/-- Settles O1: each value is a field of the reset state, and the memory of that state names no byte. -/
theorem resetLeavesStatedValues : Obligations.ResetLeavesStatedValues := by
  have zero8 : ∀ k : Fin 8, (Vector.replicate 8 (0 : Word))[k] = 0 := fun k => Vector.getElem_replicate _
  exact ⟨rfl, zero8, fun _ => rfl, rfl, rfl, rfl, rfl, fun _ => rfl, rfl, rfl, zero8, fun _ => rfl, fun _ => rfl,
    fun _ _ => rfl, fun _ => rfl, rfl, rfl⟩

end Proofs
end Sys2Proof.Machine
end

section
/-! The address map as a whole (R51 to R54), and the accesses that are bus errors (R56, R57). -/

namespace Sys2Proof.Machine
namespace Proofs

open Sys2Proof.Machine.Laws

/-! ### Which addresses are mapped -/

theorem isSome_regSlot_iff (k : Nat) : (regSlot k).isSome ↔ k < 32 := by
  unfold regSlot
  split_ifs <;> simp <;> omega

theorem isSome_regAt_iff (a : Addr) : (regAt a).isSome ↔ (a.toNat % 8 = 0 ∧ a.toNat ≤ 0x0F8) := by
  unfold regAt
  split
  case isTrue aligned => rw [isSome_regSlot_iff]; omega
  case isFalse unaligned => simp [unaligned]

theorem isSome_byteAt_iff (a : Addr) :
    (byteAt a).isSome ↔ ((0x100 ≤ a.toNat ∧ a.toNat ≤ 0x1D4) ∨ (0x200 ≤ a.toNat ∧ a.toNat ≤ 0x363)) := by
  unfold byteAt byteAtNat
  split_ifs <;> simp <;> omega

/-- Settles O26: the laws of the address map find an item at its own address and there alone; which addresses are mapped is
read off the map's ranges. -/
theorem addressMapRoundTrip : Obligations.AddressMapRoundTrip :=
  ⟨regAt_addr, fun _ _ => addr_of_regAt, byteAt_addr,
    fun _ b h => BitVec.eq_of_toNat_eq ((addrNat_of_byteAt h).trans (addrNat_of_byteAt (byteAt_addr b)).symm),
    isSome_regAt_iff, isSome_byteAt_iff⟩

/-! ### Which items are read only (R57) -/

/-- STATUS and RIDX, and every register from HOUT on. -/
theorem writable_reg_eq_false_iff (r : Reg) : r.writable = false ↔ slotOf r = 1 ∨ slotOf r = 5 ∨ 16 ≤ slotOf r := by
  cases r <;> simp [Reg.writable, slotOf] <;> omega

/-- OUTBUF and the ROMs above it. -/
theorem writable_byteItem_eq_false_iff (x : ByteItem) : x.writable = false ↔ 0x280 ≤ x.addrNat := by
  cases x <;> simp [ByteItem.writable, ByteItem.addrNat] <;> omega

/-! ### The accesses that are bus errors -/

section BusErrors
variable {s : State} {p : Addr}

theorem hostAccess_regRead_of_unmapped (h : regAt p = none) :
    hostAccess (.regRead p) s = .next (s.answered .busError) := by
  simp only [hostAccess, busResponse, busEffect, h]

theorem hostAccess_byteRead_of_unmapped (h : byteAt p = none) :
    hostAccess (.byteRead p) s = .next (s.answered .busError) := by
  simp only [hostAccess, busResponse, busEffect, h]

/-- A RegWrite is a bus error where no writable register stands: at an unmapped address or at a read-only register. -/
theorem hostAccess_regWrite_of_not_writable (v : Word) (h : ∀ r, regAt p = some r → r.writable = false) :
    hostAccess (.regWrite p v) s = .next (s.answered .busError) := by
  cases hr : regAt p with
  | none => simp only [hostAccess, busResponse, busEffect, hr]
  | some r => exact hostAccess_regWrite_of_readOnly v hr (h r hr)

/-- A ByteWrite is a bus error where no writable byte stands: at an unmapped address or at a read-only byte. -/
theorem hostAccess_byteWrite_of_not_writable (b : Byte) (h : ∀ x, byteAt p = some x → x.writable = false) :
    hostAccess (.byteWrite p b) s = .next (s.answered .busError) := by
  cases hx : byteAt p with
  | none => simp only [hostAccess, busResponse, busEffect, hx]
  | some x => exact hostAccess_byteWrite_of_readOnly b hx (h x hx)

end BusErrors

/-- Settles O35: each ground is an unmapped address or an item that is read only, and neither depends on the state. -/
theorem busErrorsHaveNoEffect : Obligations.BusErrorsHaveNoEffect := by
  intro s a v b
  refine ⟨fun h => ?_, fun h => ?_, fun h => ?_, fun h => ?_⟩
  · have unmapped : regAt a = none := by
      rw [← Option.not_isSome_iff_eq_none, isSome_regAt_iff]; omega
    exact ⟨hostAccess_regRead_of_unmapped unmapped,
      hostAccess_regWrite_of_not_writable v fun r hr => by rw [unmapped] at hr; cases hr⟩
  · have unmapped : byteAt a = none := by
      rw [← Option.not_isSome_iff_eq_none, isSome_byteAt_iff]; omega
    exact ⟨hostAccess_byteRead_of_unmapped unmapped,
      hostAccess_byteWrite_of_not_writable b fun x hx => by rw [unmapped] at hx; cases hx⟩
  · refine hostAccess_regWrite_of_not_writable v fun r hr => (writable_reg_eq_false_iff r).mpr ?_
    have address : a.toNat = 8 * slotOf r := by rw [addr_of_regAt hr, toNat_addr]
    bv_omega
  · refine hostAccess_byteWrite_of_not_writable b fun x hx => (writable_byteItem_eq_false_iff x).mpr ?_
    rwa [← addrNat_of_byteAt hx]

end Proofs
end Sys2Proof.Machine
end

section
/-! A Word and its eight bytes, a byte string and its Words, the four bytes of a big-endian number: each reading and its
writing undo each other (R100 to R103). -/

namespace Sys2Proof.Machine
namespace Proofs

open Sys2Proof.Machine.Laws

/-! ### The number a byte string stands for -/

theorem leNat_eq_ofDigits (bs : List Byte) : leNat bs = Nat.ofDigits 256 (bs.map BitVec.toNat) := by
  induction bs with
  | nil => rfl
  | cons b bs ih => rw [leNat, ih, List.map_cons, Nat.ofDigits_cons]

theorem lt_of_mem_map_toNat (bs : List Byte) : ∀ d ∈ bs.map BitVec.toNat, d < 256 := by
  intro d hd
  obtain ⟨b, -, rfl⟩ := List.mem_map.mp hd
  exact b.isLt

theorem leNat_lt (bs : List Byte) : leNat bs < 256 ^ bs.length := by
  simpa [leNat_eq_ofDigits] using Nat.ofDigits_lt_base_pow_length (by decide) (lt_of_mem_map_toNat bs)

/-- R100, as the sum it is written there. -/
theorem leNat_eq_sum (bs : List Byte) :
    leNat bs = ∑ j ∈ Finset.range bs.length, (bs.getD j 0).toNat * 2 ^ (8 * j) := by
  induction bs with
  | nil => rfl
  | cons b bs ih =>
    rw [leNat, ih, List.length_cons, Finset.sum_range_succ', Finset.mul_sum, Nat.add_comm]
    congr 1
    · refine Finset.sum_congr rfl fun j _ => ?_
      rw [List.getD_cons_succ, Nat.mul_add, Nat.pow_add]
      ring
    · simp

/-- Byte strings of one length are read as different numbers. -/
theorem eq_of_leNat_eq {bs cs : List Byte} (hl : bs.length = cs.length) (h : leNat bs = leNat cs) : bs = cs := by
  rw [leNat_eq_ofDigits, leNat_eq_ofDigits] at h
  have digits := Nat.ofDigits_inj_of_len_eq (by decide) (by simpa using hl) (lt_of_mem_map_toNat bs)
    (lt_of_mem_map_toNat cs) h
  exact List.map_injective_iff.mpr (fun _ _ => BitVec.eq_of_toNat_eq) digits

/-! ### One Word (R100, R101) -/

theorem toNat_leWord {chunk : List Byte} (h : chunk.length = 8) : (leWord chunk).toNat = leNat chunk := by
  have bound : leNat chunk < 2 ^ 64 := by simpa [h] using leNat_lt chunk
  rw [leWord, BitVec.toNat_ofNat, Nat.mod_eq_of_lt bound]

theorem leNat_wordBytes (w : Word) : leNat (wordBytes w) = w.toNat := by
  have hw := w.isLt
  simp only [wordBytes, List.range_succ, List.range_zero, List.map_cons, List.map_nil, List.nil_append,
    List.cons_append, leNat, BitVec.extractLsb'_toNat, Nat.shiftRight_eq_div_pow]
  omega

theorem leWord_wordBytes (w : Word) : leWord (wordBytes w) = w :=
  BitVec.eq_of_toNat_eq (by rw [toNat_leWord (length_wordBytes w), leNat_wordBytes])

theorem wordBytes_leWord {chunk : List Byte} (h : chunk.length = 8) : wordBytes (leWord chunk) = chunk :=
  eq_of_leNat_eq (by rw [length_wordBytes, h]) (by rw [leNat_wordBytes, toNat_leWord h])

/-! ### A string of Words (R103) -/

theorem chunkWords_encodeWords (ws : List Word) : chunkWords ws.length (encodeWords ws) = ws := by
  induction ws with
  | nil => rfl
  | cons w ws ih =>
    rw [List.length_cons, chunkWords, encodeWords, List.take_left' (length_wordBytes w),
      List.drop_left' (length_wordBytes w), leWord_wordBytes, ih]

theorem encodeWords_chunkWords (n : Nat) (bs : List Byte) (h : bs.length = 8 * n) :
    encodeWords (chunkWords n bs) = bs := by
  induction n generalizing bs with
  | zero => rw [List.length_eq_zero_iff.mp h]; rfl
  | succ n ih =>
    rw [chunkWords, encodeWords, wordBytes_leWord (by rw [List.length_take]; omega),
      ih _ (by rw [List.length_drop]; omega), List.take_append_drop]

theorem toList_fixedWords (n : Nat) (bs : List Byte) (h : bs.length = 8 * n) :
    (fixedWords n bs).toList = chunkWords n bs := by
  have decoded := decodeWords_fixed n bs h
  rw [decodeWords, if_neg (by omega), h, Nat.mul_div_cancel_left _ (by decide)] at decoded
  injection decoded with words
  exact words.symm

theorem fixedWords_encodeWords {n : Nat} (ws : Vector Word n) : fixedWords n (encodeWords ws.toList) = ws := by
  have words := chunkWords_encodeWords ws.toList
  rw [Vector.length_toList] at words
  exact Vector.toList_inj.mp (by rw [toList_fixedWords _ _ (by simp), words])

theorem encodeWords_fixedWords (n : Nat) (bs : List Byte) (h : bs.length = 8 * n) :
    encodeWords (fixedWords n bs).toList = bs := by
  rw [toList_fixedWords n bs h, encodeWords_chunkWords n bs h]

/-- Word k of a byte string is the little-endian number of bytes 8k to 8k + 7. -/
theorem toNat_getElem_fixedWords {n : Nat} {bs : List Byte} (h : bs.length = 8 * n) (k : Fin n) :
    (fixedWords n bs)[k].toNat = ∑ j ∈ Finset.range 8, (bs.getD (8 * k.val + j) 0).toNat * 2 ^ (8 * j) := by
  have chunkLength : ((bs.drop (8 * k.val)).take 8).length = 8 := by
    rw [List.length_take, List.length_drop]; omega
  have word : (fixedWords n bs)[k] = leWord ((bs.drop (8 * k.val)).take 8) := by simp [fixedWords]
  rw [word, toNat_leWord chunkLength, leNat_eq_sum, chunkLength]
  refine Finset.sum_congr rfl fun j hj => ?_
  have hj := Finset.mem_range.mp hj
  simp [List.getD_eq_getElem?_getD, hj]

/-! ### The rounds field (R82, R102) -/

theorem toNat_decodeBE32 (b0 b1 b2 b3 : Byte) : (decodeBE32 [b0, b1, b2, b3]).toNat =
    b0.toNat * 2 ^ 24 + b1.toNat * 2 ^ 16 + b2.toNat * 2 ^ 8 + b3.toNat := by
  simp only [decodeBE32, beNat, List.foldl_cons, List.foldl_nil, BitVec.toNat_ofNat]
  omega

theorem decodeBE32_encodeBE32 (r : BitVec 32) : decodeBE32 (encodeBE32 r) = r := by
  apply BitVec.eq_of_toNat_eq
  rw [encodeBE32, toNat_decodeBE32]
  simp only [BitVec.extractLsb'_toNat, Nat.shiftRight_eq_div_pow]
  omega

theorem encodeBE32_decodeBE32 {bs : List Byte} (h : bs.length = 4) : encodeBE32 (decodeBE32 bs) = bs := by
  obtain ⟨b0, b1, b2, b3, rfl⟩ := List.length_eq_four.mp h
  have number := toNat_decodeBE32 b0 b1 b2 b3
  simp only [encodeBE32, List.cons.injEq, and_true]
  refine ⟨?_, ?_, ?_, ?_⟩ <;> apply BitVec.eq_of_toNat_eq <;>
    simp only [BitVec.extractLsb'_toNat, Nat.shiftRight_eq_div_pow] <;> omega

end Proofs
end Sys2Proof.Machine
end

section
/-! The 213-byte frame: its five fields one after another, what its decoder answers, and the two readings of it that undo
each other (R81 to R86, R110 to R115). -/

namespace Sys2Proof.Machine
namespace Proofs

open Sys2Proof.Machine.Laws

/-! ### Fields -/

theorem getD_field (frame : List Byte) (a : Nat) {n j : Nat} (hj : j < n) :
    (field frame a n).getD j 0 = frame.getD (a + j) 0 := by
  simp [field, List.getD_eq_getElem?_getD, hj]

/-- A field is the middle one of three parts, when the first part reaches up to it and the middle part has its length. -/
theorem field_append {xs ys zs : List Byte} {a n : Nat} (ha : xs.length = a) (hn : ys.length = n) :
    field (xs ++ ys ++ zs) a n = ys := by
  rw [field, List.append_assoc, List.drop_left' ha, List.take_left' hn]

theorem field_append_field (frame : List Byte) (a m n : Nat) :
    field frame a m ++ field frame (a + m) n = field frame a (m + n) := by
  rw [field, field, field, List.take_add, List.drop_drop]

theorem field_all {frame : List Byte} {n : Nat} (h : frame.length = n) : field frame 0 n = frame := by
  rw [field, List.drop_zero, List.take_of_length_le h.le]

theorem field_flagByte {frame : List Byte} (h : frame.length = 213) : field frame 212 1 = [flagByte frame] := by
  obtain ⟨b, hb⟩ := List.length_eq_one_iff.mp (length_field frame 212 1 h.ge)
  have first := getD_field frame 212 (n := 1) (j := 0) (by decide)
  rw [hb] at first
  rw [hb, flagByte, ← first]
  rfl

/-- R81: the five fields fill the frame. -/
theorem fields_eq_frame {frame : List Byte} (h : frame.length = 213) :
    field frame 0 4 ++ field frame 4 64 ++ field frame 68 128 ++ field frame 196 16 ++ [flagByte frame] = frame := by
  rw [← field_flagByte h, field_append_field, field_append_field, field_append_field, field_append_field, field_all h]

/-! ### The frame that encodes arguments -/

theorem length_encodeFrame {args : Arguments} (h : args.block.length = 128) : (encodeFrame args).length = 213 := by
  simp [encodeFrame, h]

theorem flagByte_encodeFrame {args : Arguments} (h : args.block.length = 128) :
    flagByte (encodeFrame args) = if args.f then 0x01#8 else 0x00#8 := by
  rw [flagByte, encodeFrame, List.getD_append_right _ _ _ _ (by simp [h])]
  simp [h]

/-- Each field of the frame of some arguments holds its argument, at its offset. -/
theorem frameArguments_encodeFrame {args : Arguments} (hb : args.block.length = 128) :
    frameArguments (encodeFrame args) = args := by
  have roundsField : field (encodeFrame args) 0 4 = encodeBE32 args.rounds := by
    simpa [encodeFrame] using field_append (xs := []) (ys := encodeBE32 args.rounds) rfl rfl
  have hField : field (encodeFrame args) 4 64 = encodeWords args.h.toList := by
    simpa [encodeFrame] using field_append (xs := encodeBE32 args.rounds) (ys := encodeWords args.h.toList) rfl (by simp)
  have blockField : field (encodeFrame args) 68 128 = args.block := by
    simpa [encodeFrame] using field_append (xs := encodeBE32 args.rounds ++ encodeWords args.h.toList) (by simp) hb
  have tField : field (encodeFrame args) 196 16 = encodeWords args.t.toList :=
    field_append (by simp [hb]) (by simp)
  have flagField : (flagByte (encodeFrame args) == 0x01#8) = args.f := by
    rw [flagByte_encodeFrame hb]; cases args.f <;> rfl
  rw [frameArguments, roundsField, hField, blockField, tField, flagField, decodeBE32_encodeBE32,
    fixedWords_encodeWords, fixedWords_encodeWords]

/-- A frame with a legal final flag is the frame of the arguments read from it. -/
theorem encodeFrame_frameArguments {frame : List Byte} (hl : frame.length = 213)
    (hf : flagByte frame = 0x00#8 ∨ flagByte frame = 0x01#8) : encodeFrame (frameArguments frame) = frame := by
  have flag : (if (flagByte frame == 0x01#8) = true then 0x01#8 else 0x00#8) = flagByte frame := by
    rcases hf with h | h <;> rw [h] <;> rfl
  have parts := length_field frame
  rw [encodeFrame, frameArguments, flag, encodeBE32_decodeBE32 (parts 0 4 (by omega)),
    encodeWords_fixedWords 8 _ (parts 4 64 (by omega)), encodeWords_fixedWords 2 _ (parts 196 16 (by omega)),
    fields_eq_frame hl]

/-! ### The decoder's answer -/

theorem decodeInput_eq_ok_iff {frame : List Byte} {n : Word} {args : Arguments} : decodeInput frame n = .ok args ↔
    n = 213#64 ∧ (flagByte frame = 0x00#8 ∨ flagByte frame = 0x01#8) ∧ args = frameArguments frame := by
  rcases decodeInput_cases frame n with ⟨hn, h⟩ | ⟨hn, hf, h⟩ | ⟨hn, hf, h⟩ <;> rw [h]
  · simp [hn]
  · simp [hf]
  · rw [not_and_or, not_not, not_not] at hf
    exact ⟨fun e => ⟨hn, hf, (Except.ok.inj e).symm⟩, fun ⟨_, _, e⟩ => congrArg _ e.symm⟩

theorem decodeInput_of_illegal_flag {frame : List Byte} (h0 : flagByte frame ≠ 0x00#8) (h1 : flagByte frame ≠ 0x01#8) :
    decodeInput frame 213#64 = .error .invalidFinalFlag := by
  simp [decodeInput, h0, h1]

/-- Settles O20: the frame of some arguments has a legal final flag and gives each argument back; a frame that decodes has a
legal final flag, and then its fields are those of the frame it is read as. -/
theorem frameEncodingRoundTrip : Obligations.FrameEncodingRoundTrip := by
  refine ⟨fun args hb => ⟨length_encodeFrame hb, ?decoded⟩, ?encoded⟩
  case decoded =>
    refine decodeInput_eq_ok_iff.mpr ⟨rfl, ?_, (frameArguments_encodeFrame hb).symm⟩
    rw [flagByte_encodeFrame hb]
    cases args.f with
    | false => exact .inl rfl
    | true => exact .inr rfl
  case encoded =>
    intro frame n args hl h
    obtain ⟨-, flag, rfl⟩ := decodeInput_eq_ok_iff.mp h
    exact encodeFrame_frameArguments hl flag

/-- Settles O21: a field's byte j is the frame's byte at the field's offset plus j, read in the byte order of its codec; the
flag byte alone decides what the decoder answers. -/
theorem frameFieldsAtTheirOffsets : Obligations.FrameFieldsAtTheirOffsets := by
  intro frame hl b
  have fieldLength := length_field frame
  have words {n a : Nat} (ha : a + 8 * n ≤ 213) (k : Fin n) : (fixedWords n (field frame a (8 * n)))[k].toNat =
      ∑ j ∈ Finset.range 8, b (a + 8 * k.val + j) * 2 ^ (8 * j) := by
    rw [toNat_getElem_fixedWords (fieldLength _ _ (by omega))]
    refine Finset.sum_congr rfl fun j hj => ?_
    have hj := Finset.mem_range.mp hj
    rw [getD_field _ _ (by omega), Nat.add_assoc]
  have blockLength := fieldLength 68 128 (by omega)
  refine ⟨?rounds, words (n := 8) (a := 4) (by decide), fun j hj => getD_field frame 68 hj, blockLength,
    words (n := 16) (a := 68) (by decide), words (n := 2) (a := 196) (by decide), ?flag0, ?flag1, ?flagElse⟩
  case rounds =>
    obtain ⟨b0, b1, b2, b3, bytes⟩ := List.length_eq_four.mp (fieldLength 0 4 (by omega))
    have byte {j : Nat} (hj : j < 4) : b j = ([b0, b1, b2, b3].getD j 0).toNat := by
      rw [← bytes, getD_field frame 0 hj, Nat.zero_add]
    rw [byte (j := 0) (by decide), byte (j := 1) (by decide), byte (j := 2) (by decide), byte (j := 3) (by decide),
      frameArguments, bytes, toNat_decodeBE32]
    rfl
  case flag0 =>
    intro h
    have flag : flagByte frame = 0x00#8 := BitVec.eq_of_toNat_eq h
    exact ⟨decodeInput_eq_ok_iff.mpr ⟨rfl, .inl flag, rfl⟩, by simp [frameArguments, flag]⟩
  case flag1 =>
    intro h
    have flag : flagByte frame = 0x01#8 := BitVec.eq_of_toNat_eq h
    exact ⟨decodeInput_eq_ok_iff.mpr ⟨rfl, .inr flag, rfl⟩, by simp [frameArguments, flag]⟩
  case flagElse =>
    intro h
    have large : 2 ≤ (flagByte frame).toNat := h
    exact decodeInput_of_illegal_flag (by bv_omega) (by bv_omega)

end Proofs
end Sys2Proof.Machine
end

section
/-! Command words: which word is which command, which words are illegal, and what writing one to CMD does (R88 to R91, R150). -/

namespace Sys2Proof.Machine
namespace Proofs

open Sys2Proof.Machine.Laws

/-! ### The decoder of command words -/

theorem decodeCommand_encode (i : Instr) : decodeCommand (encode i) = some i := by
  cases i with
  | clear => exact Sys2Proof.Laws.Encoding.clear.right.right
  | decode => exact Sys2Proof.Laws.Encoding.decode.right.right
  | compress => exact Sys2Proof.Laws.Encoding.compress.right.right
  | decodeCompress => exact Sys2Proof.Laws.Encoding.decodeCompress.right.right

theorem decodeCommand_eq_some_iff (c : Word) (i : Instr) : decodeCommand c = some i ↔ c = encode i :=
  ⟨eq_encode_of_decodeCommand, fun h => h ▸ decodeCommand_encode i⟩

/-- R90: an illegal word has RSV ≠ 0 or an OP past the table. -/
theorem decodeCommand_eq_none_iff (c : Word) :
    decodeCommand c = none ↔ (c.extractLsb' 8 56 ≠ 0 ∨ 0x04 ≤ (c.extractLsb' 0 8).toNat) := by
  unfold decodeCommand
  split
  case isFalse reserved => exact iff_of_true rfl (.inl reserved)
  case isTrue reserved =>
    split
    case h_1 op known | h_2 op known | h_3 op known | h_4 op known =>
      exact iff_of_false nofun (by rw [known]; exact not_or.mpr ⟨not_not.mpr reserved, by decide⟩)
    case h_5 op n0 n1 n2 n3 =>
      rw [imp_false] at n0 n1 n2 n3
      exact iff_of_true rfl (.inr (by omega))

/-- R91: the illegal words are those that are none of the four. -/
theorem decodeCommand_eq_none_iff_ne (c : Word) :
    decodeCommand c = none ↔ (c ≠ 0x0 ∧ c ≠ 0x1 ∧ c ≠ 0x2 ∧ c ≠ 0x3) := by
  have none_iff : decodeCommand c = none ↔ ∀ i, c ≠ encode i := by
    simp only [Option.eq_none_iff_forall_ne_some, ne_eq, decodeCommand_eq_some_iff]
  rw [none_iff]
  constructor
  · exact fun h => ⟨h .clear, h .decode, h .compress, h .decodeCompress⟩
  · rintro ⟨h0, h1, h2, h3⟩ (_ | _ | _ | _)
    exacts [h0, h1, h2, h3]

/-- Settles O19: decoding inverts encoding; a word is illegal by its two fields, or for being no command's word. -/
theorem commandDecodingIsTotal : Obligations.CommandDecodingIsTotal :=
  ⟨decodeCommand_eq_some_iff, decodeCommand_eq_none_iff, decodeCommand_eq_none_iff_ne⟩

/-- Settles O18: the first four words are the commands' encodings, the other three are none of the four. -/
theorem commandWordsDecode : Obligations.CommandWordsDecode := by
  have illegal {c : Word} := (decodeCommand_eq_none_iff_ne c).mpr
  exact ⟨decodeCommand_encode .clear, decodeCommand_encode .decode, decodeCommand_encode .compress,
    decodeCommand_encode .decodeCompress, illegal (by decide), illegal (by decide), illegal (by decide)⟩

/-! ### Writes that are no bus error -/

variable {s : State} {p : Addr}

/-- A RegWrite to a writable register answers Ok, then is the register's write. -/
theorem hostAccess_regWrite {r : Reg} (v : Word) (hr : regAt p = some r) (hw : r.writable = true) :
    hostAccess (.regWrite p v) s = writeReg r v (s.answered .ok) := by
  simp only [hostAccess, busResponse, busEffect, hr, hw, if_true]

/-- A ByteWrite to a writable byte answers Ok, then is the byte's write. -/
theorem hostAccess_byteWrite {x : ByteItem} (b : Byte) (hx : byteAt p = some x) (hw : x.writable = true) :
    hostAccess (.byteWrite p b) s = writeByte x b (s.answered .ok) := by
  simp only [hostAccess, busResponse, busEffect, hx, hw, if_true]

theorem hostAccess_writeCommand (c : Word) : hostAccess (.regWrite 0x000 c) s = writeCommand c (s.answered .ok) :=
  hostAccess_regWrite c (regAt_addr .cmd) rfl

/-- Settles O12: the word decodes to nothing, so that while idle it is the error report; while busy it is not decoded at
all. -/
theorem illegalCommandOnlyReports : Obligations.IllegalCommandOnlyReports := by
  refine ⟨fun s c illegal idle => ?idle, fun s c busy => ?busy, by decide⟩
  case idle =>
    have decoded := (decodeCommand_eq_none_iff c).mpr illegal
    rw [hostAccess_writeCommand, writeCommand_illegal (by simpa using idle) decoded]
    rfl
  case busy =>
    rw [hostAccess_writeCommand, writeCommand_mix (by simpa using busy)]
    rfl

end Proofs
end Sys2Proof.Machine
end

section
/-! Two lines of a host program: one iteration of POLL, and FRAME run to its end on an idle machine (R93). -/

namespace Sys2Proof.Machine
namespace Proofs

open Sys2Proof.Machine.Laws

variable {s : State}

/-! ### POLL -/

theorem pollEnds_eq_not_busy (s : State) : pollEnds s = !s.status.busy := by
  rw [pollEnds, readReg, (statusWord_fields s.status).left]

theorem hostStep_of_poll {rest : List HostOp} (h : s.hostOps = .poll :: rest) :
    hostStep s = .next
      ((s.planned (if s.status.busy then .poll :: rest else rest)).answered (.word s.status.word)) := by
  have status : regAt 0x008#12 = some .status := regAt_addr .status
  simp only [hostStep, h, pollEnds_eq_not_busy, hostAccess, pollAccess, busEffect, busResponse, status, readReg,
    planned_status]
  cases s.status.busy <;> rfl

/-- Settles O30: the read answers with STATUS, whose bit 0 is BUSY, and BUSY alone decides whether the POLL stays. -/
theorem pollRepeatsWhileBusy : Obligations.PollRepeatsWhileBusy := by
  intro s rest h
  refine ⟨fun busy => ?busy, fun idle => ?idle⟩
  case busy => rw [hostStep_of_poll h, busy, if_pos rfl, ← h]; rfl
  case idle => rw [hostStep_of_poll h, idle, if_neg Bool.false_ne_true]; rfl

/-! ### Writes in an idle machine with no planned turn -/

theorem step_of_access {a : Access} {rest : List HostOp} (noTurns : s.turns = []) (idle : s.phase = .idle)
    (h : s.hostOps = .access a :: rest) : step s = hostAccess a (s.planned rest) := by
  rw [step_of_turns_nil_of_idle noTurns idle]
  simp only [hostStep, h]

theorem byteAt_of_inbuf_range {p : Addr} (k : Fin 213) (hp : p.toNat = 0x100 + k.val) : byteAt p = some (.inbuf k) := by
  have address : p = (ByteItem.inbuf k).addr := by
    rw [ByteItem.addr, ByteItem.addrNat, ← hp, BitVec.ofNat_toNat, BitVec.setWidth_eq]
  rw [address, byteAt_addr]

theorem hostAccess_byteWrite_inbuf {p : Addr} (b : Byte) (idle : s.phase = .idle)
    (hp : 0x100 ≤ p.toNat ∧ p.toNat < 0x1D5) :
    hostAccess (.byteWrite p b) s = .next ((s.answered .ok).setByte p.toNat b) := by
  obtain ⟨k, hk⟩ : ∃ k : Fin 213, p.toNat = 0x100 + k.val := ⟨⟨p.toNat - 0x100, by omega⟩, by simp only; omega⟩
  rw [hostAccess_byteWrite b (byteAt_of_inbuf_range k hk) rfl, hk]
  exact writeItem_idle (by simpa using idle)

theorem hostAccess_regWrite_inLen (v : Word) (idle : s.phase = .idle) :
    hostAccess (.regWrite (Reg.addr .inLen) v) s = .next ((s.answered .ok).setInLen v) := by
  rw [hostAccess_regWrite v (regAt_addr .inLen) rfl]
  exact writeItem_idle (by simpa using idle)

/-! ### FRAME -/

/-- The byte writes of a WBS into INBUF, one step each, store its bytes and leave the operations after them. -/
theorem runFor_expandBytes (bs : List Byte) (p : Addr) (rest : List HostOp) (n : Nat) (noTurns : s.turns = [])
    (idle : s.phase = .idle) (hp : 0x100 ≤ p.toNat ∧ p.toNat + bs.length ≤ 0x1D5)
    (h : s.hostOps = expandBytes p bs ++ rest) :
    ∃ r, runFor (bs.length + n) s =
      runFor n { s with mem := Memory.store s.mem p.toNat bs, hostOps := rest, response := r } := by
  induction bs generalizing p s with
  | nil => exact ⟨s.response, by rw [store_nil, List.length_nil, Nat.zero_add, ← show s.hostOps = rest from h]⟩
  | cons b bs ih =>
    rw [List.length_cons] at hp
    have next : (p + 1).toNat = p.toNat + 1 := by
      rw [BitVec.toNat_add]; exact Nat.mod_eq_of_lt (by simp; omega)
    have operations : s.hostOps = .access (.byteWrite p b) :: (expandBytes (p + 1) bs ++ rest) := h
    have first : step s = .next (((s.planned (expandBytes (p + 1) bs ++ rest)).answered .ok).setByte p.toNat b) := by
      rw [step_of_access noTurns idle operations, hostAccess_byteWrite_inbuf b (by simpa using idle) (by omega)]
    obtain ⟨r, run⟩ := ih (s := ((s.planned (expandBytes (p + 1) bs ++ rest)).answered .ok).setByte p.toNat b) (p + 1)
      (by simpa using noTurns) (by simpa using idle) (by omega) (by simp)
    refine ⟨r, ?_⟩
    rw [List.length_cons, Nat.add_right_comm, runFor_succ _ first, run, next, store_cons]
    rfl

/-- The state FRAME leads to: the bytes in INBUF, 213 in IN_LEN, no operation left, the last write answered Ok. -/
def frameLoaded (bs : List Byte) (s : State) : State :=
  { s with
    mem := Memory.store s.mem 0x100 bs
    inLen := 213
    hostOps := []
    response := some .ok }

theorem runFor_frame {bs : List Byte} (noTurns : s.turns = []) (idle : s.phase = .idle) (length : bs.length = 213)
    (h : s.hostOps = (Line.frame bs).expand) : runFor 214 s = .next (frameLoaded bs s) := by
  obtain ⟨r, run⟩ := runFor_expandBytes bs 0x100#12 _ 1 noTurns idle (by simp [length]) h
  rw [length] at run
  refine run.trans (runFor_succ (t := frameLoaded bs s) 0 ?lastStep)
  refine (step_of_access (by exact noTurns) (by exact idle) rfl).trans ?lastWrite
  exact hostAccess_regWrite_inLen 213#64 idle

/-- INBUF holds the bytes stored there, and the two other buffers are out of the store's reach. -/
theorem buffers_frameLoaded {bs : List Byte} (wf : Memory.wf s.mem) (length : bs.length = 213) :
    (frameLoaded bs s).inbuf = bs ∧ (frameLoaded bs s).block = s.block ∧ (frameLoaded bs s).outbuf = s.outbuf := by
  have inBuffers : ∀ k < bs.length, Memory.InBuffers (0x100 + k) := fun k hk => .inl (by omega)
  refine ⟨?inbuf, ?block, ?outbuf⟩
  case inbuf =>
    have loaded := load_store _ bs wf inBuffers
    rwa [length] at loaded
  case block => exact load_store_other _ bs wf inBuffers _ _ (by omega)
  case outbuf => exact load_store_other _ bs wf inBuffers _ _ (by omega)

/-- Settles O31: 213 byte writes and the write of IN_LEN, one step each; no other item is written. -/
theorem framePseudoOperationLoadsTheFrame : Obligations.FramePseudoOperationLoadsTheFrame := by
  intro s bs idle wf noTurns length ops
  obtain ⟨inbuf, block, outbuf⟩ := buffers_frameLoaded wf length
  exact ⟨frameLoaded bs s, runFor_frame noTurns idle length ops, inbuf, rfl, rfl, block, outbuf, rfl⟩

end Proofs
end Sys2Proof.Machine
end

section
/-! The Word Codec and the rounds field at any length: what decodes, to which Words, and which byte is where (R100 to R103). -/

namespace Sys2Proof.Machine
namespace Proofs

open Sys2Proof.Machine.Laws

/-! ### When and to what a byte string decodes (R100, R103) -/

theorem decodeWords_of_length_mod_ne {bs : List Byte} (h : bs.length % 8 ≠ 0) : decodeWords bs = .error .invalidLength := by
  rw [decodeWords, if_pos h]

theorem decodeWords_of_length {n : Nat} {bs : List Byte} (h : bs.length = 8 * n) :
    decodeWords bs = .ok (chunkWords n bs) := by
  rw [decodeWords_fixed n bs h, toList_fixedWords n bs h]

theorem decodeWords_encodeWords (ws : List Word) : decodeWords (encodeWords ws) = .ok ws := by
  rw [decodeWords_of_length (length_encodeWords ws), chunkWords_encodeWords]

/-- Settles O23: a string of 8n bytes decodes to its n chunks, and both single-chunk conversions undo each other. -/
theorem codecRoundTrip : Obligations.CodecRoundTrip := by
  refine ⟨fun b h => ?bytes, decodeWords_encodeWords, length_encodeWords⟩
  case bytes =>
    obtain ⟨n, length⟩ := Nat.dvd_of_mod_eq_zero h
    exact ⟨chunkWords n b, decodeWords_of_length length, encodeWords_chunkWords n b length⟩

/-! ### Bytes of Words (R100, R101) -/

theorem getD_wordBytes (w : Word) {j : Nat} (hj : j < 8) : (wordBytes w).getD j 0 = w.extractLsb' (8 * j) 8 := by
  simp [wordBytes, List.getD_eq_getElem?_getD, hj]

/-- Byte j of Word k of an encoding is byte 8k + j of the whole. -/
theorem getD_encodeWords {ws : List Word} {k j : Nat} (hk : k < ws.length) (hj : j < 8) :
    (encodeWords ws).getD (8 * k + j) 0 = (ws.getD k 0).extractLsb' (8 * j) 8 := by
  induction ws generalizing k with
  | nil => exact absurd hk (Nat.not_lt_zero k)
  | cons w ws ih =>
    rw [encodeWords]
    cases k with
    | zero =>
      rw [Nat.mul_zero, Nat.zero_add, List.getD_append _ _ _ _ (by simpa using hj), getD_wordBytes w hj,
        List.getD_cons_zero]
    | succ k =>
      have skip : 8 * (k + 1) + j - (wordBytes w).length = 8 * k + j := by rw [length_wordBytes]; omega
      rw [List.getD_append_right _ _ _ _ (by rw [length_wordBytes]; omega), skip,
        ih (Nat.lt_of_succ_lt_succ hk), List.getD_cons_succ]

/-- Settles O24: off the multiples of 8 only the length check speaks; on them Word k is the number of its chunk; encoding puts
each Word's bytes after those of the Words before it. -/
theorem codecIsLittleEndian : Obligations.CodecIsLittleEndian := by
  refine ⟨fun b h => decodeWords_of_length_mod_ne h, fun b h => ?words,
    fun ws => ⟨length_encodeWords ws, fun k hk j hj => getD_encodeWords hk hj⟩⟩
  case words =>
    have length : b.length = 8 * (b.length / 8) := (Nat.mul_div_cancel' (Nat.dvd_of_mod_eq_zero h)).symm
    refine ⟨_, decodeWords_fixed _ b length, by simp, fun k hk => ?_⟩
    have word : (fixedWords (b.length / 8) b).toList.getD k 0 = (fixedWords (b.length / 8) b)[(⟨k, hk⟩ : Fin _)] := by
      simp [List.getD_eq_getElem?_getD, hk]
    rw [word, toNat_getElem_fixedWords length]

/-! ### The rounds field (R102) -/

/-- Settles O25: folding in each next byte moves those before it up by one place of 256. -/
theorem roundsFieldIsBigEndian : Obligations.RoundsFieldIsBigEndian := toNat_decodeBE32

end Proofs
end Sys2Proof.Machine
end

section
/-! The decoder's two checks, in their order (R111 to R113, R115). -/

namespace Sys2Proof.Machine
namespace Proofs

variable {frame : List Byte}

/-- R112: the final-flag byte is the last byte of a whole frame. -/
theorem getLast?_eq_some_flagByte (length : frame.length = 213) : frame.getLast? = some (flagByte frame) := by
  rw [List.getLast?_eq_getElem?, length, flagByte, List.getD_eq_getElem _ _ (by omega), List.getElem?_eq_getElem]

theorem getLast?_eq_some_iff_flagByte (length : frame.length = 213) {b : Byte} :
    frame.getLast? = some b ↔ flagByte frame = b := by
  rw [getLast?_eq_some_flagByte length, Option.some_inj]

theorem decodeInput_of_ne_213 {n : Word} (h : n ≠ 213#64) : decodeInput frame n = .error .invalidInputLength := by
  rw [decodeInput, if_pos h]

/-- Settles O22: the length check answers before the frame is read; on a whole frame the flag byte is the last one, and it
alone decides. -/
theorem decoderChecksInOrder : Obligations.DecoderChecksInOrder := by
  refine fun frame n => ⟨decodeInput_of_ne_213, ?illegalFlag, ?legalFlag⟩
  case illegalFlag =>
    rintro length rfl not0 not1
    rw [Ne, getLast?_eq_some_iff_flagByte length] at not0 not1
    exact decodeInput_of_illegal_flag not0 not1
  case legalFlag =>
    rintro length rfl flag
    rw [getLast?_eq_some_iff_flagByte length, getLast?_eq_some_iff_flagByte length] at flag
    exact ⟨frameArguments frame, decodeInput_eq_ok_iff.mpr ⟨rfl, flag, rfl⟩⟩

end Proofs
end Sys2Proof.Machine
end

section
/-! The datapath of the Compression Engine: rotation, G on its four lanes, INIT, FINALIZE, and the loop made of them (R120 to
R132). -/

namespace Sys2Proof.Machine
namespace Proofs

/-! ### The word primitives (R121, R122) -/

/-- R122 is Lean's own rotation to the right, for every amount below 64. -/
theorem rotr64_eq_rotateRight (x : Word) {n : Nat} (hn : n < 64) : rotr64 x n = x.rotateRight n := by
  rw [rotr64, BitVec.rotateRight_def, Nat.mod_eq_of_lt hn]

theorem getLsbD_rotr64 (x : Word) {n k : Nat} (hn : n < 64) (hk : k < 64) :
    (rotr64 x n).getLsbD k = x.getLsbD ((k + n) % 64) := by
  rw [rotr64_eq_rotateRight x hn, BitVec.getLsbD_rotateRight, Nat.mod_eq_of_lt hn]
  by_cases low : k < 64 - n
  · have inside : (k + n) % 64 = n + k := by omega
    simp [low, inside]
  · have wrapped : (k + n) % 64 = k - (64 - n) := by omega
    simp [low, hk, wrapped]

/-- Settles O42: a rotation by less than 64 reads bit k + n where there is one, and the bits shifted out above. -/
theorem rotationMovesBits : Obligations.RotationMovesBits := by
  intro x n k hn hk
  have amount : ∀ n ∈ [32, 24, 16, 63], n < 64 := by decide
  exact getLsbD_rotr64 x (amount n hn) hk

theorem not64_eq_not (x : Word) : not64 x = ~~~x := BitVec.xor_allOnes

/-! ### G (R123) -/

/-- The four Words that G reads and writes, in the order of its lanes. -/
structure MixLanes where
  a : Word
  b : Word
  c : Word
  d : Word

/-- Four of G's eight lines on its Words alone: a message Word is added, then the rotations are by m and by n. -/
def MixLanes.half (q : MixLanes) (x : Word) (m n : Nat) : MixLanes :=
  let a := q.a + q.b + x
  let d := (q.d ^^^ a).rotateRight m
  let c := q.c + d
  ⟨a, (q.b ^^^ c).rotateRight n, c, d⟩

/-- G on its Words alone: the same four lines twice. -/
def MixLanes.mix (q : MixLanes) (x y : Word) : MixLanes := (q.half x 32 24).half y 16 63

/-- The Words of four lanes of the working vector. -/
def lanesAt (v : Words16) (a b c d : Fin 16) : MixLanes := ⟨v[a], v[b], v[c], v[d]⟩

/-- Four of G's eight lines on the working vector, with the rotation amounts ROT[i] and ROT[j]. -/
def mixHalf (v : Words16) (a b c d : Fin 16) (x : Word) (i j : Fin 4) : Words16 :=
  let v := v.set a (add64 (add64 v[a] v[b]) x)
  let v := v.set d (rotr64 (xor64 v[d] v[a]) (rotAmount i))
  let v := v.set c (add64 v[c] v[d])
  v.set b (rotr64 (xor64 v[b] v[c]) (rotAmount j))

section
variable (v : Words16) (x y : Word) {a b c d : Fin 16}

theorem mixG_eq_mixHalf : mixG v a b c d x y = mixHalf (mixHalf v a b c d x 0 1) a b c d y 2 3 := rfl

theorem rotAmount_lt : ∀ i : Fin 4, rotAmount i < 64 := by decide

theorem lanesAt_mixHalf (i j : Fin 4) (distinct : [a, b, c, d].Nodup) :
    lanesAt (mixHalf v a b c d x i j) a b c d = (lanesAt v a b c d).half x (rotAmount i) (rotAmount j) := by
  simp only [List.nodup_cons, List.mem_cons, not_or, List.not_mem_nil, Fin.ext_iff] at distinct
  obtain ⟨⟨ab, ac, ad, -⟩, ⟨bc, bd, -⟩, ⟨cd, -⟩, -⟩ := distinct
  simp [lanesAt, MixLanes.half, mixHalf, add64, xor64, rotr64_eq_rotateRight, rotAmount_lt,
    ab, ac, ad, bc, bd, cd, Ne.symm ab, Ne.symm ac, Ne.symm ad, Ne.symm bc, Ne.symm bd, Ne.symm cd]

/-- G on four distinct lanes is `MixLanes.mix` there. -/
theorem lanesAt_mixG (distinct : [a, b, c, d].Nodup) :
    lanesAt (mixG v a b c d x y) a b c d = (lanesAt v a b c d).mix x y := by
  rw [mixG_eq_mixHalf, lanesAt_mixHalf _ _ _ _ distinct, lanesAt_mixHalf _ _ _ _ distinct]
  rfl

/-- G writes no lane but its own. -/
theorem getElem_mixG_of_notMem {k : Fin 16} (other : k ∉ [a, b, c, d]) : (mixG v a b c d x y)[k] = v[k] := by
  simp only [List.mem_cons, not_or, List.not_mem_nil, Fin.ext_iff] at other
  obtain ⟨ka, kb, kc, kd, -⟩ := other
  simp [mixG, Vector.getElem_set, Ne.symm ka, Ne.symm kb, Ne.symm kc, Ne.symm kd]

end

/-- Settles O43: the lanes of G are those of `MixLanes.mix`, whose lines are the statement's. -/
theorem mixingFunctionUpdatesFourLanes : Obligations.MixingFunctionUpdatesFourLanes := by
  intro v a b c d x y distinct
  have lanes := lanesAt_mixG v x y distinct
  exact ⟨congrArg MixLanes.a lanes, congrArg MixLanes.b lanes, congrArg MixLanes.c lanes, congrArg MixLanes.d lanes,
    fun _ => getElem_mixG_of_notMem v x y⟩

/-- On a lane of its own, G depends on the Words of its own lanes alone. -/
theorem getElem_mixG_congr {v w : Words16} {x y : Word} {a b c d k : Fin 16} (distinct : [a, b, c, d].Nodup)
    (own : k ∈ [a, b, c, d]) (same : ∀ i ∈ [a, b, c, d], v[i] = w[i]) :
    (mixG v a b c d x y)[k] = (mixG w a b c d x y)[k] := by
  have lanes : lanesAt (mixG v a b c d x y) a b c d = lanesAt (mixG w a b c d x y) a b c d := by
    rw [lanesAt_mixG _ _ _ distinct, lanesAt_mixG _ _ _ distinct, lanesAt, lanesAt, same a (by simp), same b (by simp),
      same c (by simp), same d (by simp)]
  obtain ⟨ha, hb, hc, hd⟩ := MixLanes.mk.inj lanes
  simp only [List.mem_cons, List.not_mem_nil, or_false] at own
  rcases own with rfl | rfl | rfl | rfl
  exacts [ha, hb, hc, hd]

/-- Two calls in either order agree on a lane outside the second call's four. -/
theorem getElem_mixG_comm {v : Words16} {x y x' y' : Word} {a b c d a' b' c' d' k : Fin 16}
    (distinct : [a, b, c, d].Nodup) (disjoint : List.Disjoint [a, b, c, d] [a', b', c', d'])
    (other : k ∉ [a', b', c', d']) :
    (mixG (mixG v a b c d x y) a' b' c' d' x' y')[k] = (mixG (mixG v a' b' c' d' x' y') a b c d x y)[k] := by
  rw [getElem_mixG_of_notMem _ _ _ other]
  by_cases own : k ∈ [a, b, c, d]
  · exact getElem_mixG_congr distinct own fun i hi => (getElem_mixG_of_notMem _ _ _ (disjoint hi)).symm
  · rw [getElem_mixG_of_notMem _ _ _ own, getElem_mixG_of_notMem _ _ _ own, getElem_mixG_of_notMem _ _ _ other]

/-- Vectors of Words are equal lane by lane. -/
theorem vector_ext {n : Nat} {v w : Vector Word n} (h : ∀ k : Fin n, v[k] = w[k]) : v = w :=
  Vector.ext fun k hk => h ⟨k, hk⟩

/-- Settles O44: every lane is outside one of the two calls. -/
theorem callsOnDisjointLanesCommute : Obligations.CallsOnDisjointLanesCommute := by
  intro v a b c d a' b' c' d' x y x' y' distinct
  obtain ⟨first, second, disjoint⟩ := List.nodup_append'.mp (show ([a, b, c, d] ++ [a', b', c', d']).Nodup from distinct)
  refine vector_ext fun k => ?_
  by_cases other : k ∈ [a', b', c', d']
  · exact (getElem_mixG_comm second disjoint.symm fun own => disjoint own other).symm
  · exact getElem_mixG_comm first disjoint other

/-! ### INIT, FINALIZE and the loop (R127 to R132) -/

section
variable (h : Words8) (t : Vector Word 2) (f : Bool)

theorem flagLane_eq : flagLane f = if f then ~~~Rom.iv[6] else Rom.iv[6] := by
  simp only [flagLane, not64_eq_not]

/-- R127: lanes 0 to 7 are the chaining state. -/
theorem getElem_initVector_low (k : Fin 8) : (initVector h t f)[k.val] = h[k] := by
  rw [initVector]
  fin_cases k <;> rfl

/-- R127: lanes 8 to 15 are IV with t and f applied. -/
theorem getElem_initVector_high (k : Fin 8) : (initVector h t f)[k.val + 8] =
    (#v[Rom.iv[0], Rom.iv[1], Rom.iv[2], Rom.iv[3], t[0] ^^^ Rom.iv[4], t[1] ^^^ Rom.iv[5],
      if f then ~~~Rom.iv[6] else Rom.iv[6], Rom.iv[7]] : Words8)[k] := by
  rw [initVector, flagLane_eq]
  fin_cases k <;> rfl

/-- R128: the final flag writes lane 14 alone. -/
theorem initVector_eq_set : initVector h t f = (initVector h t false).set 14 (flagLane f) := by
  rw [initVector, initVector]
  rfl

theorem getElem_finalizeVector (v : Words16) (k : Fin 8) :
    (finalizeVector h v)[k] = h[k] ^^^ v[k.val] ^^^ v[k.val + 8] := by
  simp [finalizeVector, xor64]

end

/-- Settles O45: the lanes of the two halves, and the one lane that the flag writes. -/
theorem initialVectorLanes : Obligations.InitialVectorLanes := by
  intro h t f
  have high := getElem_initVector_high h t
  refine ⟨getElem_initVector_low h t f, fun k => ?iv, high f 4, high f 5, high false 6, high true 6, high f 7,
    fun k hk => ?flag⟩
  case iv => fin_cases k <;> [exact high f 0; exact high f 1; exact high f 2; exact high f 3]
  case flag =>
    have other : (14 : Nat) ≠ k.val := fun e => hk (Fin.ext e.symm)
    rw [initVector_eq_set h t true, Fin.getElem_fin, Vector.getElem_set_ne _ _ other, ← Fin.getElem_fin]

/-- Settles O46: with no round FINALIZE cancels lanes 0 to 7 of INIT against the chaining state, which leaves lanes 8 to 15. -/
theorem zeroRoundsResult : Obligations.ZeroRoundsResult := by
  intro h block t f
  refine vector_ext fun k => ?_
  rw [compress, mixRounds, getElem_finalizeVector, getElem_initVector_low, BitVec.xor_self, BitVec.zero_xor,
    getElem_initVector_high]

/-- Settles O57: the vectors are those of `mixRounds`; a message Word is a Word of the codec. -/
theorem compressIsTheLoopOfRounds : Obligations.CompressIsTheLoopOfRounds := by
  refine ⟨fun rounds h block t f => ?loop, fun block length => toNat_getElem_fixedWords (n := 16) length⟩
  case loop =>
    exact ⟨fun i => mixRounds (messageWords block) i (initVector h t f), rfl, fun _ _ => rfl,
      getElem_finalizeVector h _⟩

end Proofs
end Sys2Proof.Machine
end

section
/-! A compression carried to its end, whatever the host does meanwhile: the result of the arguments it was accepted with (R131,
R153, R154, R157, R160, R161). -/

namespace Sys2Proof.Machine
namespace Proofs

open Sys2Proof.Machine.Laws

variable {s t u : State} {args : Arguments} {k : Nat}

/-- The argument registers as the tuple of R114. -/
def argumentsOf (s : State) : Arguments where
  rounds := s.rounds
  h := s.h
  block := s.block
  t := s.t
  f := s.fflag

/-- The state ended the compression of these arguments, and still holds them. -/
def EndsCompressionOf (args : Arguments) (t : State) : Prop :=
  t.hout = compress args.rounds.toNat args.h args.block args.t args.f ∧ t.outbuf = encodeWords t.hout.toList ∧
  t.status.done = true ∧ t.status.busy = false ∧ t.status.err = false ∧
  t.rounds = args.rounds ∧ t.h = args.h ∧ t.block = args.block ∧ t.t = args.t ∧ t.fflag = args.f

/-- On the loop of R131 with all rounds done, the finalisation writes the compression of the argument registers. -/
theorem endsCompressionOf_finalStep (hw : Memory.wf s.mem) (busy : s.phase = .mix) (last : s.ridx = s.rounds)
    (course : s.MixOnCourse) : EndsCompressionOf (argumentsOf s) (finalStep s) := by
  obtain ⟨houtbuf, hblock, -⟩ := buffers_finalStep hw
  obtain ⟨-, -, hv⟩ := course busy
  have result : (finalStep s).hout = compress s.rounds.toNat s.h s.block s.t s.fflag := by
    rw [finalStep_hout, hv, last, compress]
  exact ⟨result, houtbuf, rfl, rfl, rfl, rfl, rfl, hblock, rfl, rfl⟩

/-- An engine turn that leaves a busy machine idle is the finalisation. -/
theorem eq_finalStep_of_stepOn (h : StepOn s u t) (turn : s.turn = .engine) (busy : u.phase = .mix)
    (idle : t.phase = .idle) : u.ridx = u.rounds ∧ t = finalStep u := by
  cases h with
  | final _ _ last => exact ⟨last, rfl⟩
  | outside | round => exact nomatch busy.symm.trans idle
  | reset turn' | dropped _ _ turn' | landed _ _ _ turn' => exact nomatch turn.symm.trans turn'

/-- While busy, and with no reset, a step keeps the argument registers (R157) and stays on the loop of R131. -/
theorem busy_step_keeps (hw : Memory.wf s.mem) (course : s.MixOnCourse) (busy : s.phase = .mix)
    (noReset : s.turn ≠ .reset) (run : step s = .next t) :
    Memory.wf t.mem ∧ t.MixOnCourse ∧ argumentsOf t = argumentsOf s := by
  obtain ⟨ops, r, ts, on⟩ := exists_stepOn_of_step run
  obtain ⟨hrounds, hh, hblock, ht, hf, -, -⟩ := argumentsFrozenWhileBusy s t hw busy noReset run
  refine ⟨wf_of_stepOn on hw, mixOnCourse_of_stepOn on course, ?_⟩
  rw [argumentsOf, hrounds, hh, hblock, ht, hf, argumentsOf]

/-- A busy machine on the loop of R131 ends with the compression of its argument registers. -/
theorem endsCompressionOf_of_finishes (h : Finishes s k t) (hw : Memory.wf s.mem) (course : s.MixOnCourse) :
    EndsCompressionOf (argumentsOf s) t := by
  induction h with
  | final s t busy turn run idle =>
    obtain ⟨ops, r, ts, on⟩ := exists_stepOn_of_step run
    obtain ⟨last, rfl⟩ := eq_finalStep_of_stepOn on turn busy idle
    exact endsCompressionOf_finalStep (s := withOutside s ops r ts) hw busy last course
  | round s u t k busy turn run rest ih | host s u t k busy turn run rest ih =>
    obtain ⟨hw, course, same⟩ := busy_step_keeps hw course busy (by rw [turn]; decide) run
    exact same ▸ ih hw course

/-! ### Acceptance (R153, R154) -/

theorem exec_compress_of_idle (idle : s.phase = .idle) : exec .compress s = .next (startCompression s) :=
  acceptCommand_idle idle

theorem exec_decodeCompress_of_idle (idle : s.phase = .idle) (decoded : decodeInput s.inbuf s.inLen = .ok args) :
    exec .decodeCompress s = .next (startCompression (writeArguments args s)) := by
  rw [exec_eq, acceptCommand_idle idle, effectOf, decodeThen, decoded]

theorem argumentsOf_writeArguments (hw : Memory.wf s.mem) (length : args.block.length = 128) :
    argumentsOf (writeArguments args s) = args := by
  obtain ⟨hblock, -, -⟩ := buffers_writeArguments hw length
  rw [argumentsOf, hblock]
  rfl

theorem argumentsOf_startCompression (s : State) : argumentsOf (startCompression s) = argumentsOf s := rfl

/-- A compression just started is on the loop of R131, at its start. -/
theorem endsCompressionOf_of_startCompression (hw : Memory.wf s.mem) (h : Finishes (startCompression s) k t) :
    EndsCompressionOf (argumentsOf s) t :=
  argumentsOf_startCompression s ▸ endsCompressionOf_of_finishes h hw (mixOnCourse_startCompression s)

/-- Settles O49: acceptance puts the machine on the loop of R131 with the arguments it takes; host accesses and mixing steps
keep it there and keep the arguments, by induction on `Finishes`; the finalisation writes the result. -/
theorem compressionResult : Obligations.CompressionResult := by
  refine ⟨fun s u t k idle hw run h => ?compress, fun s u t k args idle hw decoded run h => ?decodeCompress⟩
  case compress =>
    obtain rfl := Host.Outcome.next.inj ((exec_compress_of_idle idle).symm.trans run)
    exact endsCompressionOf_of_startCompression hw h
  case decodeCompress =>
    obtain rfl := Host.Outcome.next.inj ((exec_decodeCompress_of_idle idle decoded).symm.trans run)
    have length := length_block_of_decodeInput length_inbuf decoded
    have result := endsCompressionOf_of_startCompression (wf_writeArguments hw length) h
    rwa [argumentsOf_writeArguments hw length] at result

end Proofs
end Sys2Proof.Machine
end

section
/-! The four commands: what each does while idle, the drop while busy, and what each leaves unchanged (R150 to R156). -/

namespace Sys2Proof.Machine
namespace Proofs

open Sys2Proof.Machine.Laws

variable {s t : State} {i : Instr} {after : State → State}

/-! ### Accepted or dropped -/

theorem exec_of_mix (busy : s.phase = .mix) : exec i s = .next (dropWrite s) := by
  rw [exec_eq, acceptCommand_mix busy]

theorem exec_of_idle (idle : s.phase = .idle) : exec i s = .next (effectOf i s) := by
  rw [exec_eq, acceptCommand_idle idle]

/-- A command answers with the drop while busy and with its effect while idle. -/
theorem exec_cases (h : exec i s = .next t) :
    (s.phase = .mix ∧ t = dropWrite s) ∨ (s.phase = .idle ∧ t = effectOf i s) := by
  cases hp : s.phase with
  | mix => exact .inl ⟨rfl, (Host.Outcome.next.inj ((exec_of_mix hp).symm.trans h)).symm⟩
  | idle => exact .inr ⟨rfl, (Host.Outcome.next.inj ((exec_of_idle hp).symm.trans h)).symm⟩

/-- Settles O11: acceptance drops every command while busy, and a write to CMD is then not decoded. -/
theorem commandWhileBusyIsDropped : Obligations.CommandWhileBusyIsDropped := by
  obtain ⟨-, written, -⟩ := illegalCommandOnlyReports
  exact fun s busy => ⟨fun i => exec_of_mix busy, fun c => written s c busy⟩

/-! ### CLEAR (R151) -/

/-- Settles O7: the effect of CLEAR is the write of STATUS. -/
theorem clearZeroesStatus : Obligations.ClearZeroesStatus :=
  ⟨fun _ idle => exec_of_idle idle, by decide, fun _ busy => exec_of_mix busy⟩

/-- Settles O14: dropped or not, only STATUS is written. -/
theorem frameOfClear : Obligations.FrameOfClear := by
  intro s t h
  rcases exec_cases h with ⟨-, rfl⟩ | ⟨idle, rfl⟩
  · exact ⟨rfl, fun _ => rfl, fun _ => rfl⟩
  · exact ⟨rfl, fun _ => rfl, fun busy => nomatch idle.symm.trans busy⟩

/-! ### COMPRESS (R153) -/

/-- Settles O9: the acceptance state is `startCompression`, field by field. -/
theorem compressAccepted : Obligations.CompressAccepted := fun _ => exec_compress_of_idle

/-- Settles O16: dropped, it writes STATUS alone; accepted, the five items of `startCompression`. -/
theorem frameOfCompress : Obligations.FrameOfCompress := by
  intro s t h
  rcases exec_cases h with ⟨-, rfl⟩ | ⟨idle, rfl⟩
  · exact ⟨rfl, fun _ => rfl, fun _ => rfl⟩
  · exact ⟨rfl, fun _ => rfl, fun busy => nomatch idle.symm.trans busy⟩

/-! ### A decode, by its three answers (R111 to R113, R152) -/

theorem readByte_inbuf_212 (s : State) : readByte (.inbuf 212) s = flagByte s.inbuf := flagByte_inbuf.symm

theorem decodeThen_of_error {e : Error} (h : decodeInput s.inbuf s.inLen = .error e) :
    decodeThen after s = raiseError e s := by
  simp only [decodeThen, h]

theorem decodeThen_of_ne_213 (h : s.inLen ≠ 213) : decodeThen after s = raiseError .invalidInputLength s :=
  decodeThen_of_error (decodeInput_of_ne_213 h)

theorem decodeThen_of_illegal_flag (length : s.inLen = 213) (h0 : readByte (.inbuf 212) s ≠ 0)
    (h1 : readByte (.inbuf 212) s ≠ 1) : decodeThen after s = raiseError .invalidFinalFlag s := by
  rw [readByte_inbuf_212] at h0 h1
  exact decodeThen_of_error (length ▸ decodeInput_of_illegal_flag h0 h1)

theorem decodeThen_of_legal_flag (length : s.inLen = 213)
    (h : readByte (.inbuf 212) s = 0 ∨ readByte (.inbuf 212) s = 1) :
    decodeThen after s = after (writeArguments (frameArguments s.inbuf) s) := by
  rw [readByte_inbuf_212] at h
  simp only [decodeThen, decodeInput_eq_ok_iff.mpr ⟨length, h, rfl⟩]

/-- The block that a frame in INBUF carries is a whole one. -/
theorem length_block_frameArguments (s : State) : (frameArguments s.inbuf).block.length = 128 :=
  length_field _ _ _ (by rw [length_inbuf]; decide)

/-- Settles O8: the three answers of the decode, each with its report or with the arguments it writes. -/
theorem decodeWritesArgumentsOrReports : Obligations.DecodeWritesArgumentsOrReports := by
  intro s idle hw
  rw [exec_of_idle idle, effectOf]
  refine ⟨fun length => ?length, fun length h0 h1 => ?flag, fun length h => ?decoded⟩
  case length => rw [decodeThen_of_ne_213 length]; rfl
  case flag => rw [decodeThen_of_illegal_flag length h0 h1]; rfl
  case decoded =>
    obtain ⟨hblock, hinbuf, houtbuf⟩ := buffers_writeArguments hw (length_block_frameArguments s)
    rw [decodeThen_of_legal_flag length h]
    exact ⟨_, rfl, rfl, rfl, hblock, rfl, rfl, rfl, hinbuf, houtbuf, rfl⟩

/-- Settles O10: the reports are those of DECODE; the compression starts on the arguments just written. -/
theorem decodeCompressAcceptedOrReports : Obligations.DecodeCompressAcceptedOrReports := by
  intro s idle hw
  rw [exec_of_idle idle, effectOf]
  refine ⟨fun length => ?length, fun length h0 h1 => ?flag, fun length h => ?decoded⟩
  case length => rw [decodeThen_of_ne_213 length]; rfl
  case flag => rw [decodeThen_of_illegal_flag length h0 h1]; rfl
  case decoded =>
    obtain ⟨hblock, hinbuf, houtbuf⟩ := buffers_writeArguments hw (length_block_frameArguments s)
    rw [decodeThen_of_legal_flag length h]
    exact ⟨_, rfl, rfl, rfl, hblock, rfl, rfl, hinbuf, rfl, houtbuf, rfl, rfl, rfl, rfl, rfl, rfl⟩

/-! ### What a decode leaves unchanged (R152, R154, R183) -/

/-- The decode's arguments land in BLOCK alone of the memory. -/
theorem read_writeArguments_of_not_block (hw : Memory.wf s.mem) {args : Arguments} (hb : args.block.length = 128) {a : Nat}
    (outside : ¬(0x200 ≤ a ∧ a < 0x200 + 128)) :
    Memory.read (writeArguments args s).mem a = Memory.read s.mem a := by
  rw [writeArguments_mem, read_store _ _ _ hw (block_inBuffers hb), hb, if_neg outside]

/-- A frame that decodes is none of those that `DecodeFails` names. -/
theorem not_decodeFails_of_decodeInput {args : Arguments} (h : decodeInput s.inbuf s.inLen = .ok args) : ¬DecodeFails s := by
  obtain ⟨length, flag, -⟩ := decodeInput_eq_ok_iff.mp h
  rw [← readByte_inbuf_212] at flag
  rintro (fails | ⟨h0, h1⟩)
  · exact fails length
  · exact flag.elim h0 h1

/-- A command that decodes writes STATUS alone, and in it OVR alone when busy; or, idle and with a frame that decodes, it goes
on from the arguments written. -/
theorem decoding_exec_cases (effect : ∀ s, effectOf i s = decodeThen after s) (h : exec i s = .next t) :
    (∃ st, t = s.setStatus st ∧ (s.phase = .mix → st = s.status.overrun)) ∨
    (s.phase = .idle ∧ ¬DecodeFails s ∧
      ∃ args : Arguments, args.block.length = 128 ∧ t = after (writeArguments args s)) := by
  rcases exec_cases h with ⟨-, rfl⟩ | ⟨idle, rfl⟩
  · exact .inl ⟨s.status.overrun, rfl, fun _ => rfl⟩
  · rcases decodeThen_cases after s with ⟨e, -, -, reported⟩ | ⟨args, hb, decoded, goesOn⟩
    · exact .inl ⟨Status.failed e, (effect s).trans reported, fun busy => nomatch idle.symm.trans busy⟩
    · exact .inr ⟨idle, not_decodeFails_of_decodeInput decoded, args, hb, (effect s).trans goesOn⟩

/-- What both decoding commands leave unchanged, when what follows the decode writes no memory. -/
theorem decoding_exec_frame (effect : ∀ s, effectOf i s = decodeThen after s) (keepsMem : ∀ s, (after s).mem = s.mem)
    (hw : Memory.wf s.mem) (h : exec i s = .next t) :
    (∀ a, ¬(0x200 ≤ a ∧ a < 0x200 + 128) → Memory.read t.mem a = Memory.read s.mem a) ∧
    (s.phase = .mix ∨ DecodeFails s → { t with status := s.status } = s) ∧
    (s.phase = .mix → t.status = s.status.overrun) := by
  rcases decoding_exec_cases effect h with ⟨st, rfl, dropped⟩ | ⟨idle, decodes, args, hb, rfl⟩
  · exact ⟨fun _ _ => rfl, fun _ => rfl, dropped⟩
  · have notBusy : s.phase ≠ .mix := by rw [idle]; decide
    refine ⟨fun a outside => ?_, fun fails => absurd fails (not_or.mpr ⟨notBusy, decodes⟩), fun busy => absurd busy notBusy⟩
    rw [keepsMem, read_writeArguments_of_not_block hw hb outside]

/-- Settles O15: STATUS alone is written, or the arguments and STATUS. -/
theorem frameOfDecode : Obligations.FrameOfDecode := by
  intro s t hw h
  refine ⟨?items, decoding_exec_frame (after := finishDecode) (fun _ => rfl) (fun _ => rfl) hw h⟩
  case items =>
    rcases decoding_exec_cases (after := finishDecode) (fun _ => rfl) h with
      ⟨st, rfl, -⟩ | ⟨-, -, args, -, rfl⟩ <;> rfl

/-- Settles O17: STATUS alone is written, or the arguments and the five items that start a compression. -/
theorem frameOfDecodeCompress : Obligations.FrameOfDecodeCompress := by
  intro s t hw h
  refine ⟨?items, decoding_exec_frame (after := startCompression) (fun _ => rfl) (fun _ => rfl) hw h⟩
  case items =>
    rcases decoding_exec_cases (after := startCompression) (fun _ => rfl) h with
      ⟨st, rfl, -⟩ | ⟨-, -, args, -, rfl⟩ <;> rfl

/-! ### The step that runs a written command (R150, R155) -/

/-- Settles O27: the host's turn is the write to CMD, which answers Ok and runs the command. -/
theorem stepRunsTheWrittenCommand : Obligations.StepRunsTheWrittenCommand := by
  intro s c i rest turn op decoded
  have op' : s.afterTurn.hostOps = .access (.regWrite 0x000 c) :: rest := op
  have host : step s = hostAccess (.regWrite 0x000 c) (s.afterTurn.planned rest) := by
    simp only [step, turn, runTurn, hostStep, op']
  rw [host, hostAccess_writeCommand, writeCommand_legal decoded]
  rfl

/-- Settles O28: the placed turn and write are the ones used up. -/
theorem placedWordRunsNext : Obligations.PlacedWordRunsNext := by
  intro s nbits w i decoded
  have placed : decodeCommand (tableWord nbits w) = some i := by
    unfold decodeTableWord at decoded
    split at decoded
    · exact decoded
    · cases decoded
  exact stepRunsTheWrittenCommand (s.withFetchWord nbits w) _ i s.hostOps rfl rfl placed

end Proofs
end Sys2Proof.Machine
end

section
/-! Reads and writes that are no bus error: what a read returns, what a write does while idle, and the drop while busy (R157 to
R159, R164). -/

namespace Sys2Proof.Machine
namespace Proofs

open Sys2Proof.Machine.Laws

variable {s : State} {p : Addr}

/-! ### Which item an address names (R51) -/

/-- Word k of a register group, by its address. -/
theorem group_address (base : Nat) (k : Fin 8) :
    BitVec.ofNat 12 base + 8 * BitVec.ofNat 12 k = BitVec.ofNat 12 (base + 8 * k.val) := by
  rw [BitVec.ofNat_add, BitVec.ofNat_mul]
  rfl

theorem regAt_h (k : Fin 8) : regAt (0x040 + 8 * BitVec.ofNat 12 k) = some (.h k) :=
  (congrArg regAt (group_address 0x040 k)).trans (regAt_addr (.h k))

theorem regAt_hout (k : Fin 8) : regAt (0x080 + 8 * BitVec.ofNat 12 k) = some (.hout k) :=
  (congrArg regAt (group_address 0x080 k)).trans (regAt_addr (.hout k))

theorem regAt_iv (k : Fin 8) : regAt (0x0C0 + 8 * BitVec.ofNat 12 k) = some (.iv k) :=
  (congrArg regAt (group_address 0x0C0 k)).trans (regAt_addr (.iv k))

theorem byteAt_of_toNat_eq {x : ByteItem} (h : p.toNat = x.addrNat) : byteAt p = some x := by
  have address : p = x.addr := by rw [ByteItem.addr, ← h, BitVec.ofNat_toNat, BitVec.setWidth_eq]
  rw [address, byteAt_addr]

/-- The registers from CMD to H, less STATUS and RIDX, are writable (R57). -/
theorem exists_writable_reg (aligned : p.toNat % 8 = 0) (high : p.toNat ≤ 0x078) (notStatus : p ≠ 0x008)
    (notRidx : p ≠ 0x028) : ∃ r, regAt p = some r ∧ r.writable = true := by
  obtain ⟨r, hr⟩ := Option.isSome_iff_exists.mp ((isSome_regAt_iff p).mpr ⟨aligned, by omega⟩)
  refine ⟨r, hr, ?_⟩
  have address : p.toNat = 8 * slotOf r := by rw [addr_of_regAt hr, toNat_addr]
  rw [← Bool.not_eq_false, writable_reg_eq_false_iff]
  bv_omega

/-- The bytes of INBUF and BLOCK are writable (R57). -/
theorem exists_writable_byte (h : (0x100 ≤ p.toNat ∧ p.toNat ≤ 0x1D4) ∨ (0x200 ≤ p.toNat ∧ p.toNat ≤ 0x27F)) :
    ∃ x, byteAt p = some x ∧ x.writable = true := by
  obtain ⟨x, hx⟩ := Option.isSome_iff_exists.mp ((isSome_byteAt_iff p).mpr (by omega))
  refine ⟨x, hx, ?_⟩
  have address := addrNat_of_byteAt hx
  rw [← Bool.not_eq_false, writable_byteItem_eq_false_iff]
  omega

/-! ### Reads (R158, R164) -/

theorem hostAccess_regRead {r : Reg} (h : regAt p = some r) :
    hostAccess (.regRead p) s = .next (s.answered (.word (readReg r s))) := by
  simp only [hostAccess, busResponse, busEffect, h]

theorem hostAccess_byteRead {x : ByteItem} (h : byteAt p = some x) :
    hostAccess (.byteRead p) s = .next (s.answered (.byte (readByte x s))) := by
  simp only [hostAccess, busResponse, busEffect, h]

/-- Settles O32: each address is its register's, and a read records what `readReg` gives for it. -/
theorem registerReadsReturnItems : Obligations.RegisterReadsReturnItems := by
  intro s
  have reads (r : Reg) : hostAccess (.regRead r.addr) s = .next (s.answered (.word (readReg r s))) :=
    hostAccess_regRead (regAt_addr r)
  exact ⟨reads .cmd, reads .status, reads .inLen, reads .rounds, reads .fflag, reads .ridx, reads (.t 0), reads (.t 1),
    fun k => hostAccess_regRead (regAt_h k), fun k => hostAccess_regRead (regAt_hout k),
    fun k => hostAccess_regRead (regAt_iv k)⟩

/-- Settles O36: each address names the byte at its offset in its range. -/
theorem byteReadsReturnItems : Obligations.ByteReadsReturnItems := by
  intro s a
  have buffer {base n : Nat} (x : ByteItem) (range : base ≤ a.toNat ∧ a.toNat < base + n) (address : a.toNat = x.addrNat)
      (value : readByte x s = Memory.read s.mem (base + (a.toNat - base))) : hostAccess (.byteRead a) s =
        .next (s.answered (.byte ((Memory.load s.mem base n).getD (a.toNat - base) 0))) := by
    rw [hostAccess_byteRead (byteAt_of_toNat_eq address), value, getD_load _ _ _ _ (by omega)]
  refine ⟨fun range => ?inbuf, fun range => ?block, fun range => ?outbuf, fun r j address => ?sigma, fun k address => ?rot⟩
  case inbuf => exact buffer (.inbuf ⟨a.toNat - 0x100, by omega⟩) (by omega) (by simp only [ByteItem.addrNat]; omega) rfl
  case block => exact buffer (.block ⟨a.toNat - 0x200, by omega⟩) (by omega) (by simp only [ByteItem.addrNat]; omega) rfl
  case outbuf => exact buffer (.outbuf ⟨a.toNat - 0x280, by omega⟩) (by omega) (by simp only [ByteItem.addrNat]; omega) rfl
  case sigma => exact hostAccess_byteRead (byteAt_of_toNat_eq (x := .sigma r j) address)
  case rot => exact hostAccess_byteRead (byteAt_of_toNat_eq (x := .rot k) address)

/-! ### Writes while busy (R156, R157) -/

theorem writeReg_of_mix {r : Reg} (v : Word) (hw : r.writable = true) (busy : s.phase = .mix) :
    writeReg r v s = .next (dropWrite s) := by
  cases r with
  | cmd => exact writeCommand_mix busy
  | inLen | rounds | fflag | t | h => exact writeItem_mix busy
  | status | ridx | hout | iv => cases hw

/-- A writable byte is written at its own address. -/
theorem writeByte_eq_writeItem {x : ByteItem} (b : Byte) (hw : x.writable = true) :
    writeByte x b s = writeItem (State.setByte x.addrNat b) s := by
  cases x with
  | inbuf | block => rfl
  | outbuf | sigma | rot => cases hw

/-- Settles O34: the addresses are those of writable items, whose writes are all dropped. -/
theorem itemWritesWhileBusyAreDropped : Obligations.ItemWritesWhileBusyAreDropped := by
  refine fun s busy => ⟨fun a v aligned high notStatus notRidx => ?reg, fun a b range => ?byte⟩
  case reg =>
    obtain ⟨r, hr, hw⟩ := exists_writable_reg aligned high notStatus notRidx
    rw [hostAccess_regWrite v hr hw, writeReg_of_mix v hw (by simpa using busy)]
    rfl
  case byte =>
    obtain ⟨x, hx, hw⟩ := exists_writable_byte range
    rw [hostAccess_byteWrite b hx hw, writeByte_eq_writeItem b hw, writeItem_mix (by simpa using busy)]
    rfl

/-! ### Writes while idle (R159, R164) -/

/-- While idle a write to an argument register answers Ok and has its effect. -/
theorem hostAccess_regWrite_of_idle {r : Reg} {v : Word} {effect : State → State} (hr : regAt p = some r)
    (hw : r.writable = true) (item : writeReg r v = writeItem effect) (idle : s.phase = .idle) :
    hostAccess (.regWrite p v) s = .next (effect (s.answered .ok)) := by
  rw [hostAccess_regWrite v hr hw, item, writeItem_idle (by simpa using idle)]

theorem setRounds_eq (v : Word) (s : State) : s.setRounds v = { s with rounds := BitVec.ofNat 32 v.toNat } := rfl

theorem setFflag_eq (v : Word) (s : State) : s.setFflag v = { s with fflag := decide (v.toNat % 2 = 1) } := by
  rw [State.setFflag, BitVec.getLsbD, Nat.testBit_zero]

theorem setT_zero_eq (v : Word) (s : State) : s.setT 0 v = { s with t := #v[v, s.t[1]] } := by
  have words : s.t.set 0 v = #v[v, s.t[1]] := vector_ext (Fin.forall_fin_two.mpr ⟨by simp, by simp⟩)
  rw [← words]
  rfl

theorem setT_one_eq (v : Word) (s : State) : s.setT 1 v = { s with t := #v[s.t[0], v] } := by
  have words : s.t.set 1 v = #v[s.t[0], v] := vector_ext (Fin.forall_fin_two.mpr ⟨by simp, by simp⟩)
  rw [← words]
  rfl

/-- Settles O33: each address is its register's; what is left is each item's value, as R159 words it. -/
theorem registerWritesWhileIdle : Obligations.RegisterWritesWhileIdle := by
  intro s v idle
  have writes {r : Reg} {effect : State → State} {u : State} (hw : r.writable = true)
      (item : writeReg r v = writeItem effect) (value : effect (s.answered .ok) = u) :
      hostAccess (.regWrite r.addr v) s = .next u := value ▸ hostAccess_regWrite_of_idle (regAt_addr r) hw item idle
  exact ⟨writes (r := .inLen) rfl rfl rfl, writes (r := .rounds) rfl rfl (setRounds_eq v _),
    writes (r := .fflag) rfl rfl (setFflag_eq v _), writes (r := .t 0) rfl rfl (setT_zero_eq v _),
    writes (r := .t 1) rfl rfl (setT_one_eq v _), fun k => hostAccess_regWrite_of_idle (regAt_h k) rfl rfl idle⟩

/-- Settles O37: the address is that of a writable byte, which is the one byte the write reaches. -/
theorem byteWritesWhileIdle : Obligations.ByteWritesWhileIdle := by
  intro s a b idle wf range
  obtain ⟨x, hx, hw⟩ := exists_writable_byte range
  have write : hostAccess (.byteWrite a b) s = .next ((s.answered .ok).setByte a.toNat b) := by
    rw [hostAccess_byteWrite b hx hw, writeByte_eq_writeItem b hw, writeItem_idle (by simpa using idle),
      addrNat_of_byteAt hx]
  refine ⟨_, write, rfl, ?written, fun y other => ?others, rfl⟩
  case written => exact (read_write _ _ _ wf).trans (if_pos rfl)
  case others => exact (read_write _ _ _ wf).trans (if_neg other)

end Proofs
end Sys2Proof.Machine
end

section
/-! The engine's two steps (R160, R161), and how many of them a compression takes (R162). -/

namespace Sys2Proof.Machine
namespace Proofs

open Sys2Proof.Machine.Laws

variable {s t : State} {k : Nat}

/-! ### One engine step -/

theorem engineStep_of_lt (busy : s.phase = .mix) (more : s.ridx < s.rounds) : engineStep s = .next (mixStep s) := by
  simp only [engineStep, busy, if_pos more]

theorem engineStep_of_eq (busy : s.phase = .mix) (last : s.ridx = s.rounds) : engineStep s = .next (finalStep s) := by
  have notLess : ¬s.ridx < s.rounds := by rw [last]; exact BitVec.lt_irrefl s.rounds
  simp only [engineStep, busy, if_neg notLess, if_pos last]

theorem mixStep_ne_self (s : State) : mixStep s ≠ s := by
  intro same
  have index : s.ridx + 1 = s.ridx := congrArg State.ridx same
  bv_omega

theorem finalStep_ne_self (busy : s.phase = .mix) : finalStep s ≠ s := by
  intro same
  have idle : .idle = s.phase := congrArg State.phase same
  exact nomatch idle.trans busy

/-- Settles O39: below ROUNDS the step is `mixStep`, which moves RIDX; at ROUNDS it is the finalisation, which moves PHASE. -/
theorem mixingStepRunsOneRound : Obligations.MixingStepRunsOneRound := by
  refine ⟨fun s busy more => engineStep_of_lt busy more, fun s busy inRange => ?moves, fun s idle => engineStep_of_idle idle⟩
  case moves =>
    rcases inRange.lt_or_eq with more | last
    · exact ⟨mixStep s, engineStep_of_lt busy more, mixStep_ne_self s⟩
    · exact ⟨finalStep s, engineStep_of_eq busy (BitVec.eq_of_toNat_eq last), finalStep_ne_self busy⟩

theorem read_finalStep_of_not_outbuf (hw : Memory.wf s.mem) {a : Nat} (outside : ¬(0x280 ≤ a ∧ a < 0x280 + 64)) :
    Memory.read (finalStep s).mem a = Memory.read s.mem a := by
  rw [finalStep_mem, read_store _ _ _ hw (outbuf_inBuffers (length_result _)), length_result, if_neg outside]

/-- Settles O40: `finalStep` is FINALIZE into HOUT and a store of its encoding over OUTBUF. -/
theorem finalStepWritesTheResult : Obligations.FinalStepWritesTheResult := by
  intro s busy last hw
  obtain ⟨houtbuf, -, -⟩ := buffers_finalStep hw
  exact ⟨finalStep s, engineStep_of_eq busy last, getElem_finalizeVector s.h s.v, houtbuf, rfl, rfl,
    fun a outside => read_finalStep_of_not_outbuf hw outside, rfl⟩

/-! ### The steps of a compression (R162) -/

/-- The engine's turn while busy is a mixing step, or the finalisation at RIDX = ROUNDS. -/
theorem busy_engine_step (busy : s.phase = .mix) (turn : s.turn = .engine) (run : step s = .next t) :
    (s.ridx < s.rounds ∧ t = mixStep s.afterTurn) ∨ (s.ridx = s.rounds ∧ t = finalStep s.afterTurn) := by
  have engine : engineStep s.afterTurn = .next t := by rw [← run, step, turn, runTurn]
  rcases engineStep_cases s.afterTurn with ⟨idle, -⟩ | ⟨-, more, e⟩ | ⟨-, last, e⟩ | ⟨-, -, e⟩
  · exact nomatch busy.symm.trans idle
  · exact .inl ⟨more, Host.Outcome.next.inj (engine.symm.trans e)⟩
  · exact .inr ⟨last, Host.Outcome.next.inj (engine.symm.trans e)⟩
  · exact nomatch engine.symm.trans e

/-- The host's turn while busy moves neither counter. -/
theorem busy_host_step_keeps_counters (busy : s.phase = .mix) (turn : s.turn = .host) (run : step s = .next t) :
    t.ridx = s.ridx ∧ t.rounds = s.rounds := by
  obtain ⟨ops, r, ts, on⟩ := exists_stepOn_of_step run
  cases on with
  | outside | dropped => exact ⟨rfl, rfl⟩
  | reset turn' | round turn' | final turn' => exact nomatch turn.symm.trans turn'
  | landed _ _ _ _ idle => exact nomatch busy.symm.trans idle

/-- Every engine step of a run to idle is one of the ROUNDS - RIDX rounds left, or the finalisation. -/
theorem ridx_add_eq_of_finishes (h : Finishes s k t) : s.ridx.toNat + k = s.rounds.toNat + 1 := by
  induction h with
  | final s t busy turn run idle =>
    rcases busy_engine_step busy turn run with ⟨-, rfl⟩ | ⟨last, -⟩
    · exact nomatch busy.symm.trans idle
    · rw [last]
  | round s u t k busy turn run rest ih =>
    rcases busy_engine_step busy turn run with ⟨more, rfl⟩ | ⟨-, rfl⟩
    · simp only [mixStep_ridx, mixStep_rounds, afterTurn_ridx, afterTurn_rounds] at ih
      bv_omega
    · cases rest with
      | final _ _ busy' | round _ _ _ _ busy' | host _ _ _ _ busy' => cases busy'
  | host s u t k busy turn run rest ih =>
    obtain ⟨sameRidx, sameRounds⟩ := busy_host_step_keeps_counters busy turn run
    rwa [sameRidx, sameRounds] at ih

/-- Settles O48: from RIDX = 0 all ROUNDS rounds and the finalisation are left. -/
theorem compressionStepCount : Obligations.CompressionStepCount := by
  intro s t k _ start h
  simpa [start] using ridx_add_eq_of_finishes h

end Proofs
end Sys2Proof.Machine
end

section
/-! Errors and exceptional accesses: no step stops the machine (R180, R187), one CMD write reports its first error (R184), and who
may set and clear OVR (R186). -/

namespace Sys2Proof.Machine
namespace Proofs

open Sys2Proof.Machine.Laws

variable {a : Access} {s t : State} {i : Instr}

/-! ### Every turn goes on (R180, R182, R187) -/

theorem busEffect_goes_on (a : Access) (s : State) : ∃ t, busEffect a s = .next t := by
  rcases busEffect_cases a s with nothing | ⟨-, -, dropped⟩ | ⟨-, t, landed, -⟩
  · exact ⟨s, nothing⟩
  · exact ⟨dropWrite s, dropped⟩
  · exact ⟨t, landed⟩

theorem hostStep_goes_on (s : State) : ∃ t, hostStep s = .next t := by
  rcases hostStep_cases s with nothing | ⟨ops, r, poll⟩ | ⟨a, rest, r, -, access⟩
  · exact ⟨s, nothing⟩
  · exact ⟨_, poll⟩
  · rw [access]; exact busEffect_goes_on a _

/-- On the loop of R131 RIDX is not past ROUNDS, where alone the engine has no step. -/
theorem engineStep_goes_on (course : s.MixOnCourse) : ∃ t, engineStep s = .next t := by
  rcases engineStep_cases s with ⟨-, nothing⟩ | ⟨-, -, round⟩ | ⟨-, -, final⟩ | ⟨busy, past, -⟩
  · exact ⟨s, nothing⟩
  · exact ⟨mixStep s, round⟩
  · exact ⟨finalStep s, final⟩
  · obtain ⟨inRange, -, -⟩ := course busy
    exact absurd past (BitVec.not_lt.mpr inRange)

/-- Settles O5: the host's turn and a reset always go on, the engine's does on the loop of R131. -/
theorem stepFromInvariantGoesOn : Obligations.StepFromInvariantGoesOn := by
  rintro s ⟨-, -, -, course⟩
  unfold step
  cases s.turn with
  | host => exact hostStep_goes_on s.afterTurn
  | engine => exact engineStep_goes_on (s := s.afterTurn) course
  | reset => exact ⟨resetEvent s.afterTurn, rfl⟩

/-! ### The first error of a CMD write (R184) -/

/-- A command leaves the bus's answer to its write as recorded. -/
theorem response_of_effectOf (i : Instr) (s : State) : (effectOf i s).response = s.response := by
  rcases effectOf_cases i s with h | ⟨e, -, h⟩ | ⟨args, -, h⟩ | ⟨-, h⟩ | ⟨-, args, -, h⟩ <;> rw [h] <;> rfl

/-- The words of DECODE and DECODE_COMPRESS are those of the commands that begin with a decode. -/
theorem exists_effectOf_eq_decodeThen (h : encode i = 0x1 ∨ encode i = 0x3) : ∃ after, effectOf i = decodeThen after := by
  cases i with
  | clear | compress => exact absurd h (by decide)
  | decode => exact ⟨finishDecode, rfl⟩
  | decodeCompress => exact ⟨startCompression, rfl⟩

theorem decodeCommand_eq_none_iff_not_legal (c : Word) : decodeCommand c = none ↔ ¬CommandWord.Legal c := by
  rw [decodeCommand_eq_none_iff, CommandWord.Legal, not_and_or, not_le]
  rfl

/-- Settles O13: busy comes before decoding the word; a word that decodes is legal, and the decoder's own order of length and flag
(R111, R112) is then the rest. -/
theorem errorPriority : Obligations.ErrorPriority := by
  intro s c
  rw [hostAccess_writeCommand]
  cases phase : s.phase with
  | mix => exact ⟨_, writeCommand_mix phase, rfl, fun _ => rfl, nofun, nofun, nofun⟩
  | idle =>
    cases decoded : decodeCommand c with
    | none =>
      obtain ⟨-, not1, -, not3⟩ := (decodeCommand_eq_none_iff_ne c).mp decoded
      have noDecode : ¬(c = 0x1 ∨ c = 0x3) := not_or.mpr ⟨not1, not3⟩
      exact ⟨_, writeCommand_illegal phase decoded, rfl, nofun, fun _ _ => rfl, fun _ h => absurd h noDecode,
        fun _ h => absurd h noDecode⟩
    | some i =>
      have runs : writeCommand c (s.answered .ok) = .next (effectOf i (s.answered .ok)) := by
        rw [writeCommand_legal decoded, exec_of_idle (s := s.answered .ok) phase]
      have decodes (word : c = 0x1 ∨ c = 0x3) : ∃ after, effectOf i = decodeThen after :=
        exists_effectOf_eq_decodeThen (eq_encode_of_decodeCommand decoded ▸ word)
      refine ⟨_, runs, response_of_effectOf i _, nofun, fun _ illegal => ?illegal, fun _ word length => ?length,
        fun _ word length not0 not1 => ?flag⟩
      case illegal => exact nomatch decoded.symm.trans ((decodeCommand_eq_none_iff_not_legal c).mpr illegal)
      case length =>
        obtain ⟨after, effect⟩ := decodes word
        rw [effect, decodeThen_of_ne_213 (s := s.answered .ok) length]
        rfl
      case flag =>
        obtain ⟨after, effect⟩ := decodes word
        rw [effect, decodeThen_of_illegal_flag (s := s.answered .ok) length not0 not1]
        rfl

/-! ### OVR (R156, R157, R186) -/

/-- The writes dropped while busy, by the addresses they name: CMD and the argument registers; INBUF and BLOCK. -/
theorem address_of_droppable (h : Droppable a) :
    (∃ p v, a = .regWrite p v ∧ p.toNat % 8 = 0 ∧ p.toNat ≤ 0x078 ∧ p ≠ 0x008 ∧ p ≠ 0x028) ∨
    (∃ p b, a = .byteWrite p b ∧ ((0x100 ≤ p.toNat ∧ p.toNat ≤ 0x1D4) ∨ (0x200 ≤ p.toNat ∧ p.toNat ≤ 0x27F))) := by
  cases h with
  | reg r v hw =>
    have address := toNat_addr r
    rw [← Bool.not_eq_false, writable_reg_eq_false_iff] at hw
    exact .inl ⟨r.addr, v, rfl, by omega, by omega, by bv_omega, by bv_omega⟩
  | byte x p b hp hw =>
    refine .inr ⟨p, b, rfl, ?_⟩
    cases x with
    | inbuf k | block k => simp only [ByteItem.addrNat] at hp; omega
    | outbuf | sigma | rot => cases hw

/-- Every command's new STATUS has OVR = 0. -/
theorem ovr_effectOf (i : Instr) (s : State) : (effectOf i s).status.ovr = false := by
  rcases effectOf_cases i s with h | ⟨e, -, h⟩ | ⟨args, -, h⟩ | ⟨-, h⟩ | ⟨-, args, -, h⟩ <;> rw [h] <;> rfl

/-- While idle an access keeps OVR, or is a write to CMD, which clears it. -/
theorem ovr_of_idleEffect (h : IdleEffect a s t) :
    t.status.ovr = s.status.ovr ∨ ((∃ c, a = .regWrite 0x000 c) ∧ t.status.ovr = false) := by
  cases h with
  | inLen | rounds | fflag | t | h | inbuf | block => exact .inl rfl
  | illegal s c => exact .inr ⟨⟨c, rfl⟩, rfl⟩
  | command s c i => exact .inr ⟨⟨c, rfl⟩, ovr_effectOf i s⟩

/-- Settles O56: of what a step can do only a dropped write sets OVR, and only a reset or a write to CMD that lands clears it. -/
theorem overrunSetAndCleared : Obligations.OverrunSetAndCleared := by
  intro s t h
  obtain ⟨ops, r, ts, h⟩ := exists_stepOn_of_step h
  cases h with
  | outside | round | final =>
    exact ⟨fun was is => (nomatch was.symm.trans is), fun _ => rfl, fun was is => (nomatch was.symm.trans is)⟩
  | reset turn => exact ⟨fun _ is => (nomatch is), fun engine => (nomatch turn.symm.trans engine), fun _ _ => .inl turn⟩
  | dropped a rest turn busy op write =>
    refine ⟨fun _ _ => ⟨turn, busy, ?_⟩, fun engine => (nomatch turn.symm.trans engine), fun _ is => (nomatch is)⟩
    rcases address_of_droppable write with ⟨p, v, rfl, address⟩ | ⟨p, b, rfl, address⟩
    · exact .inl ⟨p, v, rest, op, address⟩
    · exact .inr ⟨p, b, rest, op, address⟩
  | landed t a rest turn idle op effect =>
    rcases ovr_of_idleEffect effect with kept | ⟨⟨c, rfl⟩, cleared⟩
    · exact ⟨fun was is => (nomatch was.symm.trans (kept.symm.trans is)), fun _ => kept,
        fun was is => (nomatch was.symm.trans (kept.symm.trans is))⟩
    · exact ⟨fun _ is => (nomatch cleared.symm.trans is), fun engine => (nomatch turn.symm.trans engine),
        fun _ _ => .inr ⟨turn, idle, c, rest, op⟩⟩

end Proofs
end Sys2Proof.Machine
end

section
/-! The reset turn (R200, R201), and the end of every accepted compression without one (R210). -/

namespace Sys2Proof.Machine
namespace Proofs

open Sys2Proof.Machine.Laws

variable {s t u : State} {k b bound : Nat}

theorem step_of_turn {a : Turn} (turn : s.turn = a) : step s = runTurn a s.afterTurn := by
  rw [step, turn]

/-! ### The reset turn -/

/-- A reset event's state is that of `State.reset`, but for V, MW and what is not CORE's. -/
theorem hasResetValues_resetEvent (s : State) : (resetEvent s).HasResetValues := resetLeavesStatedValues

/-- Settles O2: a reset turn is the reset event on the state with its turn used up, whatever PHASE is. -/
theorem resetEventSetsEveryItem : Obligations.ResetEventSetsEveryItem := by
  intro s turn
  exact ⟨resetEvent s.afterTurn, step_of_turn turn, hasResetValues_resetEvent s.afterTurn, rfl, rfl, rfl⟩

/-! ### Turns while busy -/

/-- A busy machine is reset by a planned turn alone. -/
theorem turn_ne_reset_of_mix (busy : s.phase = .mix) (noReset : Turn.reset ∉ s.turns) : s.turn ≠ .reset := by
  intro turn
  cases turns : s.turns with
  | nil => exact nomatch (turn_of_turns_nil_of_mix turns busy).symm.trans turn
  | cons a ts =>
    obtain rfl : a = .reset := (turn_of_turns_cons turns).symm.trans turn
    exact noReset (turns ▸ List.mem_cons_self)

/-- While busy a host turn is a planned one, which the step uses up (log 2). -/
theorem length_turns_of_busy_host_turn (busy : s.phase = .mix) (turn : s.turn = .host) :
    s.turns.tail.length + 1 = s.turns.length := by
  cases turns : s.turns with
  | nil => exact nomatch (turn_of_turns_nil_of_mix turns busy).symm.trans turn
  | cons a ts => rfl

/-- The host's turn while busy neither ends the compression nor plans a turn. -/
theorem busy_host_step_keeps_phase (busy : s.phase = .mix) (turn : s.turn = .host) (run : step s = .next u) :
    u.phase = .mix ∧ u.turns = s.turns.tail := by
  rcases step_cases run with ⟨turn', -⟩ | ⟨turn', -⟩ | ⟨turn', -⟩ | ⟨turn', -⟩ | ⟨-, rfl⟩ | ⟨-, ops, r, rfl⟩ |
    ⟨-, -, a, ops, r, -, -, rfl⟩ | ⟨-, idle, -⟩
  iterate 4 exact nomatch turn.symm.trans turn'
  iterate 3 exact ⟨busy, rfl⟩
  · exact nomatch busy.symm.trans idle

/-! ### A compression finishes -/

/-- From the busy state the run comes to its first idle state, in `k` engine steps and at most `bound` steps in all. -/
def FinishesWithin (s : State) (k bound : Nat) : Prop :=
  ∃ t, Finishes s k t ∧ ∃ n ≤ bound, runFor n s = .next t

theorem finishesWithin_of_final (busy : s.phase = .mix) (turn : s.turn = .engine) (run : step s = .next t)
    (idle : t.phase = .idle) (steps : 1 ≤ bound) : FinishesWithin s 1 bound :=
  ⟨t, .final s t busy turn run idle, 1, steps, runFor_succ 0 run⟩

theorem finishesWithin_of_round (busy : s.phase = .mix) (turn : s.turn = .engine) (run : step s = .next u)
    (rest : FinishesWithin u k b) (steps : b + 1 ≤ bound) : FinishesWithin s (k + 1) bound := by
  obtain ⟨t, finishes, n, within, runs⟩ := rest
  exact ⟨t, .round s u t k busy turn run finishes, n + 1, by omega, (runFor_succ n run).trans runs⟩

theorem finishesWithin_of_host (busy : s.phase = .mix) (turn : s.turn = .host) (run : step s = .next u)
    (rest : FinishesWithin u k b) (steps : b + 1 ≤ bound) : FinishesWithin s k bound := by
  obtain ⟨t, finishes, n, within, runs⟩ := rest
  exact ⟨t, .host s u t k busy turn run finishes, n + 1, by omega, (runFor_succ n run).trans runs⟩

/-- A busy machine with `left` rounds to go and no reset planned finishes: a host turn uses up a planned turn, an engine turn is a
round or, with none left, the finalisation. -/
theorem finishesWithin_of_mix {s : State} {left : Nat} (busy : s.phase = .mix) (noReset : Turn.reset ∉ s.turns)
    (toGo : s.ridx.toNat + left = s.rounds.toNat) : FinishesWithin s (left + 1) (s.turns.length + left + 1) := by
  have noResetAfter : Turn.reset ∉ s.turns.tail := fun planned => noReset (List.mem_of_mem_tail planned)
  have tailLength : s.turns.tail.length = s.turns.length - 1 := List.length_tail
  cases turn : s.turn with
  | reset => exact absurd turn (turn_ne_reset_of_mix busy noReset)
  | host =>
    obtain ⟨u, hostRun⟩ := hostStep_goes_on s.afterTurn
    have run : step s = .next u := (step_of_turn turn).trans hostRun
    have used := length_turns_of_busy_host_turn busy turn
    obtain ⟨stillBusy, turns⟩ := busy_host_step_keeps_phase busy turn run
    obtain ⟨sameRidx, sameRounds⟩ := busy_host_step_keeps_counters busy turn run
    have rest : FinishesWithin u (left + 1) (u.turns.length + left + 1) :=
      finishesWithin_of_mix stillBusy (turns ▸ noResetAfter) (by rw [sameRidx, sameRounds, toGo])
    exact finishesWithin_of_host busy turn run rest (by rw [turns]; omega)
  | engine =>
    cases left with
    | zero =>
      have last : s.ridx = s.rounds := BitVec.eq_of_toNat_eq toGo
      have run : step s = .next (finalStep s.afterTurn) :=
        (step_of_turn turn).trans (engineStep_of_eq (s := s.afterTurn) busy last)
      exact finishesWithin_of_final busy turn run rfl (by omega)
    | succ left =>
      have more : s.ridx < s.rounds := BitVec.lt_def.mpr (by omega)
      have run : step s = .next (mixStep s.afterTurn) :=
        (step_of_turn turn).trans (engineStep_of_lt (s := s.afterTurn) busy more)
      have index : (s.ridx + 1).toNat = s.ridx.toNat + 1 := by bv_omega
      have rest : FinishesWithin (mixStep s.afterTurn) (left + 1) (s.turns.tail.length + left + 1) :=
        finishesWithin_of_mix (s := mixStep s.afterTurn) busy noResetAfter
          (by simp only [mixStep_ridx, mixStep_rounds, afterTurn_ridx, afterTurn_rounds]; omega)
      exact finishesWithin_of_round busy turn run rest (by omega)
termination_by s.turns.length + left
decreasing_by
  · rw [turns]; omega
  · simp only [mixStep_turns, afterTurn_turns]
    omega

/-- A compression just started has all its rounds to go. -/
theorem finishesWithin_startCompression (noReset : Turn.reset ∉ s.turns) :
    FinishesWithin (startCompression s) (s.rounds.toNat + 1) (s.turns.length + s.rounds.toNat + 1) :=
  finishesWithin_of_mix (s := startCompression s) rfl noReset (by simp)

/-- Settles O50: acceptance starts a compression of the argument registers, for DECODE_COMPRESS of those just decoded; every step
from there uses up a planned turn or one of the rounds left. -/
theorem compressionFinishes : Obligations.CompressionFinishes := by
  refine ⟨fun s u idle noReset run => ?compress, fun s u args idle noReset decoded run => ?decodeCompress⟩
  case compress =>
    obtain rfl := Host.Outcome.next.inj ((exec_compress_of_idle idle).symm.trans run)
    exact finishesWithin_startCompression noReset
  case decodeCompress =>
    obtain rfl := Host.Outcome.next.inj ((exec_decodeCompress_of_idle idle decoded).symm.trans run)
    exact finishesWithin_startCompression (s := writeArguments args s) noReset

end Proofs
end Sys2Proof.Machine
end

section
/-! The engine where RIDX exceeds ROUNDS, which no rule covers (log 7). -/

namespace Sys2Proof.Machine
namespace Proofs

open Sys2Proof.Machine.Laws

variable {s : State}

theorem engineStep_of_gt (busy : s.phase = .mix) (past : s.rounds < s.ridx) : engineStep s = .fault .ridxPastRounds := by
  rcases engineStep_cases s with ⟨idle, -⟩ | ⟨-, more, -⟩ | ⟨-, last, -⟩ | ⟨-, -, stops⟩
  · exact nomatch busy.symm.trans idle
  · exact absurd more (BitVec.lt_asymm past)
  · exact absurd past (last ▸ BitVec.lt_irrefl s.ridx)
  · exact stops

/-- Settles O41: past ROUNDS the engine neither idles, mixes nor finalises, and the one case left is the stop. -/
theorem engineStopsPastRounds : Obligations.EngineStopsPastRounds :=
  fun _ busy past => engineStep_of_gt busy (BitVec.lt_def.mpr past)

end Proofs
end Sys2Proof.Machine
end
